-- ==== Sys2Proof/Word.lean ====
section
/-! DEFINITION. The word types of the block: its registers are 32 bits wide, its raw results 16 bits and
a bus lane 8 bits (00_scope.md R9, 20_memory.md R48). -/

namespace Sys2Proof

/-- A register of the window, or a command word (R9, R63). -/
abbrev Word := BitVec 32

/-- A raw result or the IMM16 operand (R9, R67). -/
abbrev Half := BitVec 16

/-- One byte lane of the bus, or one byte of the frame (R48, R72). -/
abbrev Byte := BitVec 8

/-- The logical level of a line (R13, R25). -/
inductive Level where
  | low
  | high
  deriving DecidableEq, Repr, Inhabited

end Sys2Proof
end

