-- ==== Sys2Proof/Syntax.lean ====
section
/-! DEFINITION. The commands of the block as syntax: one constructor for each row of spec/opcode_table.json. -/

namespace Sys2Proof

/-- The two protocol variants (00_scope.md R2); VAR = 0 is coarse and VAR = 1 is fine (30_encoding.md R65). -/
inductive Variant where
  | coarse
  | fine
  deriving DecidableEq, Repr, Inhabited

/-- A line number, the four bits of a command's PIN field (30_encoding.md R63, R66). -/
abbrev PinNo := BitVec 4

/-- A command (30_encoding.md R64). -/
inductive Instr where
  /-- NOP (43_control.md R129). -/
  | nop
  /-- READ_RAW pin, var (41_decoder.md R80). -/
  | readRaw (pin : PinNo) (var : Variant)
  /-- READ_SCALED pin, var (42_scale_unit.md R115). -/
  | readScaled (pin : PinNo) (var : Variant)
  /-- UNPACK_T imm16 (42_scale_unit.md R116). -/
  | unpackT (imm : Half)
  /-- SCALE_H imm16 (42_scale_unit.md R117). -/
  | scaleH (imm : Half)
  deriving DecidableEq, Repr

end Sys2Proof
end

