-- ==== Sys2Proof/Config.lean ====
section
/-! DEFINITION. The parameters an implementation fixes (00_scope.md R8), the inputs the environment gives the
block (10_state.md R30), and the one free value: which input comes when none is lined up. -/

namespace Sys2Proof

/-- How many lines the PIN field can name, the largest `N_PINS` (R8, D12). -/
abbrev maxLines : Nat := 16

/-- One level for each line: the inputs `pin_in[p]` of R30. -/
abbrev Levels := Vector Level maxLines

/-- The OPEN parameters of R8. They are fixed for one machine; State carries them so that every statement
ranges over all of them (log 1). -/
structure Params where
  /-- `T_REL`, ticks of release before the handshake. -/
  tRel : Nat
  /-- `T_WLOW`, the first handshake window in ticks. -/
  tWlow : Nat
  /-- `T_WHIGH`, the second handshake window in ticks. -/
  tWhigh : Nat
  /-- `N_PINS`, the number of lines. -/
  nPins : Nat
  /-- `REG_BASE`, the base address of the register window. -/
  regBase : Nat
  deriving DecidableEq, Repr

namespace Params

/-- The ranges of R8 and R44 (D6, D12, D32). -/
def legal (p : Params) : Bool :=
  decide (1 ≤ p.tRel ∧ p.tRel ≤ 65535) && decide (1 ≤ p.tWlow ∧ p.tWlow ≤ 65535)
    && decide (1 ≤ p.tWhigh ∧ p.tWhigh ≤ 65535) && decide (1 ≤ p.nPins ∧ p.nPins ≤ maxLines)
    && decide (p.regBase % 64 = 0)

/-- The defaults of R8; for `REG_BASE`, which has none, 0 (DESIGN CHOICE, log 1). -/
def default : Params := { tRel := 40, tWlow := 200, tWhigh := 200, nPins := 1, regBase := 0 }

end Params

/-- One access of the host (R44). The size S of a write is the number of byte lanes it drives, the lane of
the lowest address first (R48). -/
inductive HostAccess where
  | read (addr size : Nat)
  | write (addr : Nat) (lanes : List Byte)
  deriving DecidableEq, Repr, Inhabited

namespace HostAccess

/-- The byte address A of R44. -/
def addr : HostAccess → Nat
  | .read a _ => a
  | .write a _ => a

/-- The size S in bytes of R44. -/
def size : HostAccess → Nat
  | .read _ n => n
  | .write _ lanes => lanes.length

end HostAccess

/-- What the environment can do to the block in one atomic step (R30, R55, R153). -/
inductive Input where
  /-- A host access delivered by the bus. -/
  | host (a : HostAccess)
  /-- The tick strobe, with the level the environment gives each line (R26). -/
  | tick (pinIn : Levels)
  /-- The reset input is asserted (`true`) or released (`false`). -/
  | resetLine (asserted : Bool)
  deriving DecidableEq, Repr, Inhabited

/-- FREE VALUE: the input taken when none is lined up. R55 allows any interleaving and R26 any level, so
nothing constrains it; `n` numbers the inputs taken this way (log 2). -/
opaque Config.freeInput (n : Nat) : Input

end Sys2Proof
end

