-- ==== Sys2Proof/WellFormed.lean ====
section
/-! DEFINITION. Which commands a block with given parameters accepts as legal: a read must name one of its lines
(30_encoding.md R66). Every other operand constraint holds by the operand's type. -/

namespace Sys2Proof

/-- `u(PIN) < N_PINS` for the two reads (R66); the other commands have no condition (R65, R67). -/
def Instr.wellFormed (p : Params) : Instr → Bool
  | .nop => true
  | .readRaw pin _ => decide (pin.toNat < p.nPins)
  | .readScaled pin _ => decide (pin.toNat < p.nPins)
  | .unpackT _ => true
  | .scaleH _ => true

end Sys2Proof
end

