-- ==== Sys2Proof/Decode.lean ====
section
/-! DEFINITION. The command decoder and the encoder (30_encoding.md R63 to R71, R76), and the byte lanes of the
bus (20_memory.md R48). Decoding is total: every word is one command or is rejected by name. -/

namespace Sys2Proof

/-! ## Byte lanes -/

/-- The word's four bytes, the lane of the lowest address first: little-endian (R48). -/
def Word.lanes (v : Word) : List Byte :=
  [v.extractLsb' 0 8, v.extractLsb' 8 8, v.extractLsb' 16 8, v.extractLsb' 24 8]

/-- The word four byte lanes carry (R48). No other number of lanes carries one: such an access is refused
before its data is looked at (R46), so the value given here for it is never used. -/
def Word.ofLanes : List Byte → Word
  | [b0, b1, b2, b3] => b3 ++ b2 ++ b1 ++ b0
  | _ => 0

/-! ## Fields of a command word -/

/-- VAR as a bit (R65). -/
def Variant.bit : Variant → BitVec 1
  | .coarse => 0
  | .fine => 1

/-- The variant VAR selects (R65). -/
def Variant.ofBit (b : BitVec 1) : Variant := if b = 0 then .coarse else .fine

/-- OP, `v[3:0]` (R63). -/
def opField (v : Word) : BitVec 4 := v.extractLsb' 0 4
/-- VAR, `v[4]` (R63). -/
def varField (v : Word) : BitVec 1 := v.extractLsb' 4 1
/-- PIN, `v[11:8]` (R63). -/
def pinField (v : Word) : PinNo := v.extractLsb' 8 4
/-- IMM16, `v[31:16]` (R63). -/
def immField (v : Word) : Half := v.extractLsb' 16 16

/-- The bits a read must leave zero: `v[7:5]`, `v[15:12]`, `v[31:16]` (R68, R69). -/
def readReservedZero (v : Word) : Bool :=
  v.extractLsb' 5 3 == 0 && v.extractLsb' 12 4 == 0 && immField v == 0

/-- The bits a conversion must leave zero: `v[15:4]` (R68, R69). -/
def convReservedZero (v : Word) : Bool := v.extractLsb' 4 12 == 0

/-! ## The decoder -/

/-- Why a word is ILLEGAL. -/
inductive IllegalWord where
  /-- `u(OP) >= 5` (R70). -/
  | reservedOp
  /-- A bit the selected OP does not use is 1 (R69). -/
  | reservedBits
  /-- A read names a PIN not below `N_PINS` (R66, R69). -/
  | pinOutOfRange
  deriving DecidableEq, Repr

/-- The command a word encodes, whatever `N_PINS` is: R68 without its condition on PIN. -/
def decode (v : Word) : Except IllegalWord Instr :=
  match (opField v).toNat with
  | 0 => if v = 0 then .ok .nop else .error .reservedBits
  | 1 =>
    if readReservedZero v then .ok (.readRaw (pinField v) (Variant.ofBit (varField v)))
    else .error .reservedBits
  | 2 =>
    if readReservedZero v then .ok (.readScaled (pinField v) (Variant.ofBit (varField v)))
    else .error .reservedBits
  | 3 => if convReservedZero v then .ok (.unpackT (immField v)) else .error .reservedBits
  | 4 => if convReservedZero v then .ok (.scaleH (immField v)) else .error .reservedBits
  | _ => .error .reservedOp

/-- `classify(v)` of R68 for a block with parameters `p`; an error is its ILLEGAL. -/
def classify (p : Params) (v : Word) : Except IllegalWord Instr :=
  match decode v with
  | .ok i => if i.wellFormed p then .ok i else .error .pinOutOfRange
  | .error e => .error e

/-- The instruction the decoder reads from a word numbered as spec/opcode_table.json numbers it. The word goes
to the decoder through the byte lanes, as the bus carries it. -/
def decodeTableWord (nbits w : Nat) : Option Instr :=
  (decode (Word.ofLanes (Word.lanes (BitVec.ofNat 32 (w % 2 ^ nbits))))).toOption

/-! ## The encoder -/

/-- A read word: `(u(pin) << 8) | (var << 4) | op` (R76). -/
def encodeRead (op : BitVec 4) (pin : PinNo) (var : Variant) : Word :=
  0#20 ++ pin ++ 0#3 ++ var.bit ++ op

/-- A conversion word: `(imm16 << 16) | op` (R76). -/
def encodeConv (op : BitVec 4) (imm : Half) : Word := imm ++ 0#12 ++ op

/-- The word of a command (R76). -/
def encode : Instr → Word
  | .nop => 0
  | .readRaw pin var => encodeRead 1 pin var
  | .readScaled pin var => encodeRead 2 pin var
  | .unpackT imm => encodeConv 3 imm
  | .scaleH imm => encodeConv 4 imm

/-! ## The opcode table -/

/-- A row of spec/opcode_table.json: a word belongs to it when its bits under `mask` are `pattern`. -/
structure TableRow where
  pattern : Word
  mask : Word
  deriving DecidableEq, Repr

/-- Whether a word belongs to a row. -/
def TableRow.covers (r : TableRow) (v : Word) : Bool := v &&& r.mask == r.pattern

/-- The row of each command in spec/opcode_table.json. -/
def Instr.row : Instr → TableRow
  | .nop => ⟨0x00000000, 0xFFFFFFFF⟩
  | .readRaw _ _ => ⟨0x00000001, 0xFFFFF0EF⟩
  | .readScaled _ _ => ⟨0x00000002, 0xFFFFF0EF⟩
  | .unpackT _ => ⟨0x00000003, 0x0000FFFF⟩
  | .scaleH _ => ⟨0x00000004, 0x0000FFFF⟩

end Sys2Proof
end

