-- ==== Sys2Proof/Machine/State.lean ====
section
/-! DEFINITION. The state of the block (10_state.md R16 to R30), the reasons the model stops, and the state after
reset (R42). -/

namespace Sys2Proof.Machine

/-- The sequencer phase PHASE (R17). Its codes are in Flags; codes 6 and 7 have no constructor (U8). -/
inductive Phase where
  | idle
  | hold
  | rel
  | wlow
  | whigh
  | bits
  deriving DecidableEq, Repr

/-- The sub-phase MSUB of a bit measurement (R19, R88). -/
inductive MSub where
  | skip
  | rise
  | width
  deriving DecidableEq, Repr

/-- The read command CUR_OP latches (R21). -/
inductive ReadOp where
  | readRaw
  | readScaled
  deriving DecidableEq, Repr

/-- PINMODE of a line (R25). -/
inductive PinMode where
  | input
  | output
  deriving DecidableEq, Repr

/-- The error kinds ERR records (R28, R136). Codes 5 to 7 have no constructor (U7). -/
inductive ErrKind where
  | none
  | noResponse
  | malformedHandshake
  | checksumMismatch
  | illegalCmd
  deriving DecidableEq, Repr

/-- How the bus answered the latest host access (R45, R46): the model's own record (log 12). -/
inductive BusReply where
  /-- A read was accepted; its data in byte lanes, lowest address first (R48). -/
  | data (lanes : List Byte)
  /-- A write was accepted (R45). -/
  | written
  /-- The error response of R46: no data and no effect (log 4). -/
  | busError
  deriving DecidableEq, Repr

/-- Why the machine stops with a fault. -/
inductive Fault where
  /-- Raised by a host access whose address is not in the window: it is not the block's, and R44 leaves what it
  does to the platform. Safe: the model claims nothing of a run that makes one (log 5). -/
  | outsideWindow (addr : Nat)
  deriving DecidableEq, Repr

/-- Why the machine has no meaning for a step. -/
inductive Refusal where
  /-- An instruction whose arm has no meaning yet. No arm raises it. Safe: nothing is claimed of it. -/
  | notModelled (mnemonic : String)
  /-- Raised by a step in a state whose parameters are outside the ranges of R8: D32, "Out-of-range parameters
  are refused". Safe: no block has such parameters (log 7). -/
  | parametersOutOfRange
  deriving DecidableEq, Repr

/-- The state: every element of R17 to R30, then the level of the reset input (R154), the parameters (R8) and
the model's own fields. -/
structure State where
  /-- PHASE (R17). -/
  phase : Phase
  /-- CTR, ticks within HOLD, REL, WLOW and WHIGH (R19). -/
  ctr : BitVec 16
  /-- MT, ticks since the bit measurement started (R19). -/
  mt : BitVec 16
  /-- PW, ticks the current pulse has been high (R19). -/
  pw : BitVec 16
  /-- MSUB (R19). -/
  msub : MSub
  /-- BITIDX, bits completed in the frame (R19). -/
  bitIdx : BitVec 6
  /-- SHIFT, the frame register (R20). -/
  shift : BitVec 40
  /-- CUR_PIN (R21). -/
  curPin : PinNo
  /-- CUR_VAR (R21). -/
  curVar : Variant
  /-- CUR_OP (R21). -/
  curOp : ReadOp
  /-- RAW_T (R22). -/
  rawT : Half
  /-- RAW_H (R22). -/
  rawH : Half
  /-- SCL_T (R23). -/
  sclT : Word
  /-- SCL_H (R23). -/
  sclH : Word
  /-- TDIV: SCL_T counts tenths (R23). -/
  tdiv : Bool
  /-- HDIV: SCL_H counts tenths (R23). -/
  hdiv : Bool
  /-- FLT_T (R24). -/
  fltT : Word
  /-- FLT_H (R24). -/
  fltH : Word
  /-- PINMODE[p] (R25); entries at and above `N_PINS` belong to no line (log 8). -/
  pinMode : Vector PinMode maxLines
  /-- PINLVL[p] (R25); entries at and above `N_PINS` belong to no line (log 8). -/
  pinLvl : Vector Level maxLines
  /-- LINE (R27). -/
  line : Level
  /-- DONE (R28). -/
  done : Bool
  /-- REJ (R28). -/
  rej : Bool
  /-- ERR (R28). -/
  err : ErrKind
  /-- DONE_IE (R29). -/
  doneIE : Bool
  /-- DONE_IP (R29). -/
  doneIP : Bool
  /-- Whether the reset input is asserted (R30, R154; log 6). -/
  inReset : Bool
  /-- The parameters of R8; no step writes them (log 1). -/
  params : Params
  /-- The model's own: the inputs lined up, oldest first (R55; log 2). -/
  inputs : List Input
  /-- The model's own: how many free inputs were taken (log 2). -/
  draws : Nat
  /-- The model's own: the reply to the latest host access (log 12). -/
  reply : Option BusReply
  deriving DecidableEq, Repr

/-- The block right after reset (R42, R155), with the parameters' defaults (log 1), no input lined up and none
taken (log 2), and no host access answered yet (log 12). -/
def State.reset : State where
  phase := .idle
  ctr := 0
  mt := 0
  pw := 0
  msub := .skip
  bitIdx := 0
  shift := 0
  curPin := 0
  curVar := .coarse
  curOp := .readRaw
  rawT := 0
  rawH := 0
  sclT := 0
  sclH := 0
  tdiv := false
  hdiv := false
  fltT := 0
  fltH := 0
  pinMode := Vector.replicate maxLines .input
  pinLvl := Vector.replicate maxLines .high
  line := .high
  done := false
  rej := false
  err := .none
  doneIE := false
  doneIP := false
  inReset := false
  params := Params.default
  inputs := []
  draws := 0
  reply := none

end Sys2Proof.Machine
end

