-- ==== Sys2Proof/Machine/Float.lean ====
section
/-! DEFINITION. `f32(q)`: the IEEE 754 binary32 pattern nearest to an exact rational, ties to even
(00_scope.md R12, 30_encoding.md R79, 42_scale_unit.md R110). -/

namespace Sys2Proof.Machine

/-- `num / den` rounded to the nearest integer, a tie to the even one. -/
def roundHalfEven (num den : Nat) : Nat :=
  let q := num / den
  let r := num % den
  if 2 * r < den then q
  else if den < 2 * r then q + 1
  else if q % 2 = 0 then q else q + 1

/-- `floor(log2(a / d))` for `a, d > 0`. The fraction is first scaled by a power of two above `d`, so that its
integer part is not zero. -/
def floorLog2 (a d : Nat) : Int :=
  let s := Nat.log2 d + 1
  (Nat.log2 (a * 2 ^ s / d) : Int) - (s : Int)

/-- The significand `round(a / d * 2^(23 - e))`, hidden bit included. -/
def significand (a d : Nat) (e : Int) : Nat :=
  let k := 23 - e
  if 0 ≤ k then roundHalfEven (a * 2 ^ k.toNat) d else roundHalfEven a (d * 2 ^ (-k).toNat)

/-- The exponent and fraction bits for `a / d > 0`. The least exponent is -126; a significand that rounds up to
2^24 carries into the exponent field, and a value too large becomes the infinity (neither the subnormal nor
the infinite range is reached here, R113; log 11). -/
def f32Magnitude (a d : Nat) : Nat :=
  let e := max (floorLog2 a d) (-126)
  min ((e + 126).toNat * 2 ^ 23 + significand a d e) 0x7F800000

/-- `f32(n / d)` for `d > 0` (R12, R110); `f32(0)` is positive zero. -/
def f32 (n : Int) (d : Nat) : Word :=
  if n = 0 then 0
  else (if n < 0 then 0x80000000 else 0) ||| BitVec.ofNat 32 (f32Magnitude n.natAbs d)

end Sys2Proof.Machine
end

