-- ==== Sys2Proof/Machine/Operands.lean ====
section
/-! DEFINITION. The operand forms: PIN against the number of lines, VAR as a hold time, IMM16 and the raw
results as numbers, the bytes of a frame, and a host address as a register of the window. -/

namespace Sys2Proof.Machine

/-! ## Normative durations (00_scope.md R8) -/

/-- `T_HOLD(var)`: `T_HOLD_COARSE` or `T_HOLD_FINE` ticks (41_decoder.md R84). -/
def tHold : Variant → Nat
  | .coarse => 18000
  | .fine => 1200

/-- `T_THRESH` (R8, R93). -/
def tThresh : Nat := 30

/-- `T_CEIL` (R8, R94). -/
def tCeil : Nat := 1000

/-- `N_BITS` (R8, R97). -/
def nBits : Nat := 40

/-! ## The line a command names -/

/-- `u(PIN) < N_PINS` (30_encoding.md R66). -/
def pinExists (p : Params) (pin : PinNo) : Bool := decide (pin.toNat < p.nPins)

/-! ## The scale-and-unpack unit's readings of a 16-bit pattern (42_scale_unit.md) -/

/-- What the unit computes: a numerator N and a denominator D (R108). -/
abbrev Scaled := Int × Nat

/-- `unpack_signed_tenths(r)`: bit 15 is the sign, bits 14 to 0 the magnitude; D = 10 (R111). -/
def unpackSignedTenths (r : Half) : Scaled :=
  let m : Int := ((r.extractLsb' 0 15).toNat : Int)
  (if r.msb then -m else m, 10)

/-- `scale_humidity_tenths(r)`: two's complement; D = 10 (R112). -/
def scaleHumidityTenths (r : Half) : Scaled := (r.toInt, 10)

/-- The coarse path: the raw value unchanged; D = 1 (R114, R124). -/
def coarseUnits (r : Half) : Scaled := ((r.toNat : Int), 1)

/-! ## The frame (30_encoding.md R72 to R75) -/

/-- The five bytes of a frame. -/
structure Frame where
  byte0 : Byte
  byte1 : Byte
  byte2 : Byte
  byte3 : Byte
  byte4 : Byte
  deriving DecidableEq, Repr

/-- The bytes of SHIFT (R20, R72). -/
def Frame.ofShift (sh : BitVec 40) : Frame where
  byte0 := sh.extractLsb' 32 8
  byte1 := sh.extractLsb' 24 8
  byte2 := sh.extractLsb' 16 8
  byte3 := sh.extractLsb' 8 8
  byte4 := sh.extractLsb' 0 8

/-- `SHIFT[k] <- b`. -/
def setFrameBit (sh : BitVec 40) (k : Nat) (b : Bool) : BitVec 40 :=
  if b then sh ||| (1#40 <<< k) else sh &&& ~~~(1#40 <<< k)

/-- The checksum validator: the exact sum of the data bytes, compared in its low 8 bits (R75, R99). -/
def Frame.valid (f : Frame) : Bool :=
  (f.byte0.toNat + f.byte1.toNat + f.byte2.toNat + f.byte3.toNat) % 256 == f.byte4.toNat

/-- `unpack_raw`: the raw temperature and humidity patterns (R73, R74, R103). -/
def Frame.unpackRaw (f : Frame) : Variant → Half × Half
  | .fine => (f.byte2 ++ f.byte3, f.byte0 ++ f.byte1)
  | .coarse => (f.byte2.zeroExtend 16, f.byte0.zeroExtend 16)

/-- `bit_value(PW)`: 1 when the pulse was longer than the threshold (R93). -/
def bitValue (pw : BitVec 16) : Bool := decide (tThresh < pw.toNat)

/-! ## Host addresses (20_memory.md R44, 10_state.md R31) -/

/-- The registers of the window; `reserved` stands for every offset without one. -/
inductive Reg where
  | cmd
  | status
  | intEn
  | intPend
  | rawT
  | rawH
  | sclT
  | sclH
  | fltT
  | fltH
  | reserved
  deriving DecidableEq, Repr

/-- The register at a byte offset of the window (R31). -/
def Reg.ofOffset (off : Nat) : Reg :=
  if off = 0x00 then .cmd
  else if off = 0x04 then .status
  else if off = 0x08 then .intEn
  else if off = 0x0C then .intPend
  else if off = 0x10 then .rawT
  else if off = 0x14 then .rawH
  else if off = 0x18 then .sclT
  else if off = 0x1C then .sclH
  else if off = 0x20 then .fltT
  else if off = 0x24 then .fltH
  else .reserved

/-- The offset of a host address, if it is in the window (R44). -/
def windowOffset (p : Params) (addr : Nat) : Option Nat :=
  if p.regBase ≤ addr ∧ addr < p.regBase + 64 then some (addr - p.regBase) else none

/-- Whether the block accepts an access of this offset and size (R45). -/
def accessAccepted (off size : Nat) : Bool := decide (size = 4) && decide (off % 4 = 0)

end Sys2Proof.Machine
end

