-- ==== Sys2Proof/Machine/Flags.lean ====
section
/-! DEFINITION. The status signals, the codes and the STATUS word, the output signals, and the writes of the
completion flags (10_state.md R17, R18, R28 to R30, R33, R40). -/

namespace Sys2Proof.Machine

/-! ## Codes -/

/-- The 3-bit code of PHASE (R17). -/
def Phase.code : Phase → BitVec 3
  | .idle => 0
  | .hold => 1
  | .rel => 2
  | .wlow => 3
  | .whigh => 4
  | .bits => 5

/-- The 3-bit code of ERR (R28, R136). -/
def ErrKind.code : ErrKind → BitVec 3
  | .none => 0
  | .noResponse => 1
  | .malformedHandshake => 2
  | .checksumMismatch => 3
  | .illegalCmd => 4

/-- A level as a bit: 0 is Low, 1 is High (R13). -/
def levelBit : Level → BitVec 1
  | .low => 0
  | .high => 1

/-! ## Status signals and outputs -/

/-- `BUSY = (PHASE != IDLE)` (R18). -/
def State.busy (s : State) : Bool := decide (s.phase ≠ .idle)

/-- Whether CRIT is asserted in a phase: in REL, WLOW, WHIGH and BITS (R18). -/
def Phase.critical : Phase → Bool
  | .idle => false
  | .hold => false
  | .rel => true
  | .wlow => true
  | .whigh => true
  | .bits => true

/-- CRIT, and the output `crit` (R18, R30). -/
def State.crit (s : State) : Bool := s.phase.critical

/-- The output `irq = DONE_IE & DONE_IP` (R30, R144). -/
def State.irq (s : State) : Bool := s.doneIE && s.doneIP

/-- PINMODE[p]. -/
def State.pinModeAt (s : State) (p : PinNo) : PinMode := s.pinMode[p.toNat]'p.isLt

/-- PINLVL[p]. -/
def State.pinLvlAt (s : State) (p : PinNo) : Level := s.pinLvl[p.toNat]'p.isLt

/-- The output `pin_oe[p]` (R30). -/
def State.pinOe (s : State) (p : PinNo) : Bool := decide (s.pinModeAt p = .output)

/-- The output `pin_out[p]` (R30). -/
def State.pinOut (s : State) (p : PinNo) : Bool := decide (s.pinLvlAt p = .high)

/-- The output `pin_pu[p]` (R30). -/
def State.pinPu (s : State) (p : PinNo) : Bool :=
  decide (s.pinModeAt p = .input ∧ s.pinLvlAt p = .high)

/-! ## The STATUS word -/

/-- The STATUS word, its fields from bit 31 down to bit 0 (R33). -/
def State.statusWord (s : State) : Word :=
  0#6 ++ s.curPin ++ s.bitIdx ++ 0#1 ++ s.phase.code ++ 0#1 ++ s.curVar.bit
    ++ BitVec.ofBool s.hdiv ++ BitVec.ofBool s.tdiv ++ levelBit s.line ++ s.err.code
    ++ BitVec.ofBool s.crit ++ BitVec.ofBool s.rej ++ BitVec.ofBool s.done ++ BitVec.ofBool s.busy

/-! ## Flag writes -/

/-- The flags acceptance clears: `DONE <- 0 ; REJ <- 0 ; ERR <- NONE` (43_control.md R127). -/
def State.clearStatus (s : State) : State :=
  { s with done := false, rej := false, err := .none }

/-- The flags a completion writes: `ERR <- e ; DONE <- 1 ; DONE_IP <- 1` (R40, R129, R130). -/
def State.signalDone (e : ErrKind) (s : State) : State :=
  { s with err := e, done := true, doneIP := true }

end Sys2Proof.Machine
end

