-- ==== Sys2Proof/Machine/Ops.lean ====
section
/-! DEFINITION. The named operations over the block's registers and pins: the GPIO driver, the scaled results,
acceptance and completion of a command, the exits with an error, and reading and writing a register. -/

namespace Sys2Proof.Machine

/-! ## The GPIO driver (10_state.md R25, R26) -/

/-- `PINMODE[p] <- mode ; PINLVL[p] <- lvl`. -/
def State.setPin (p : PinNo) (mode : PinMode) (lvl : Level) (s : State) : State :=
  { s with
    pinMode := s.pinMode.set p.toNat mode p.isLt
    pinLvl := s.pinLvl.set p.toNat lvl p.isLt }

/-- Drive the line low: Output, Low (41_decoder.md R81). -/
def State.driveLow (p : PinNo) (s : State) : State := s.setPin p .output .low

/-- Release the line: Input, with the pull-up of level High (R84, R102). -/
def State.releaseLine (p : PinNo) (s : State) : State := s.setPin p .input .high

/-- Whether the block drives the line low, which dominates the wire (R26). -/
def State.drivenLow (s : State) (p : PinNo) : Bool :=
  decide (s.pinModeAt p = .output ∧ s.pinLvlAt p = .low)

/-- `Sample(p)`: Low when the block drives the line low, else the level the environment gives it (R26). -/
def State.sample (s : State) (pinIn : Levels) (p : PinNo) : Level :=
  if s.drivenLow p then .low else pinIn[p.toNat]'p.isLt

/-! ## The scaled results (10_state.md R23, R24; 42_scale_unit.md R109, R110) -/

/-- `SCL_T <- N ; TDIV <- (D = 10) ; FLT_T <- f32(N / D)`. -/
def State.storeT (v : Scaled) (s : State) : State :=
  { s with sclT := BitVec.ofInt 32 v.1, tdiv := decide (v.2 = 10), fltT := f32 v.1 v.2 }

/-- `SCL_H <- N ; HDIV <- (D = 10) ; FLT_H <- f32(N / D)`. -/
def State.storeH (v : Scaled) (s : State) : State :=
  { s with sclH := BitVec.ofInt 32 v.1, hdiv := decide (v.2 = 10), fltH := f32 v.1 v.2 }

/-- `scale_results(var, rawT, rawH)` (R114). -/
def State.scaleResults (var : Variant) (rawT rawH : Half) (s : State) : State :=
  match var with
  | .fine => (s.storeT (unpackSignedTenths rawT)).storeH (scaleHumidityTenths rawH)
  | .coarse => (s.storeT (coarseUnits rawT)).storeH (coarseUnits rawH)

/-! ## Ends of a command -/

/-- The end of a read without error: `PHASE <- IDLE ; ERR <- NONE ; DONE <- 1 ; DONE_IP <- 1` (41_decoder.md R101). -/
def State.complete (s : State) : State := { s with phase := .idle }.signalDone .none

/-- `fail(e)`, the early exit with an error: the line released, PHASE IDLE, ERR, DONE and DONE_IP written and no
result register touched (R102, 60_exceptions.md R147). -/
def State.fail (e : ErrKind) (s : State) : State :=
  { s.releaseLine s.curPin with phase := .idle }.signalDone e

/-- `illegal()`: the word completes at once with ILLEGAL_CMD (43_control.md R130). -/
def State.illegal (s : State) : State := s.signalDone .illegalCmd

/-! ## Acceptance (43_control.md R127, R128) -/

/-- What a CMD write does while BUSY: `REJ <- 1`, the word discarded (R128). -/
def State.rejectWrite (s : State) : State := { s with rej := true }

/-- Presents a command to the block: rejected while BUSY (R128), else accepted, which clears DONE, REJ and ERR
and then does the command's own `effect` (R127). -/
def present (effect : State → State) (s : State) : Host.Outcome State Fault Refusal :=
  if s.busy then .next s.rejectWrite else .next (effect s.clearStatus)

/-! ## Starting a read (41_decoder.md R81) -/

/-- `start_read(op, p, var)` (R81). -/
def State.startRead (op : ReadOp) (pin : PinNo) (var : Variant) (s : State) : State :=
  { s.driveLow pin with
    curOp := op, curPin := pin, curVar := var
    phase := .hold, ctr := 0
    bitIdx := 0, shift := 0, msub := .skip, mt := 0, pw := 0 }

/-- The effect of an accepted read word: ILLEGAL when PIN names no line (30_encoding.md R66, R69), else the read
starts (R80, R115). -/
def State.requestRead (op : ReadOp) (pin : PinNo) (var : Variant) (s : State) : State :=
  if pinExists s.params pin then s.startRead op pin var else s.illegal

/-! ## Registers of the window (10_state.md R31 to R39) -/

/-- `BusRead`: the value a register reads as; it changes nothing (20_memory.md R51). -/
def State.readReg (s : State) : Reg → Word
  | .cmd => 0
  | .status => s.statusWord
  | .intEn => (BitVec.ofBool s.doneIE).zeroExtend 32
  | .intPend => (BitVec.ofBool s.doneIP).zeroExtend 32
  | .rawT => s.rawT.zeroExtend 32
  | .rawH => s.rawH.zeroExtend 32
  | .sclT => s.sclT
  | .sclH => s.sclH
  | .fltT => s.fltT
  | .fltH => s.fltH
  | .reserved => 0

/-- `WR INT_EN, v`: `DONE_IE <- v[0]` (R34, R132). -/
def State.writeIntEn (v : Word) (s : State) : State := { s with doneIE := v.getLsbD 0 }

/-- `WR INT_PEND, v`: clears DONE_IP when `v[0] = 1` (R35, R133). -/
def State.writeIntPend (v : Word) (s : State) : State :=
  { s with doneIP := s.doneIP && !v.getLsbD 0 }

/-! ## Reset (70_reset_and_hazards.md R153) -/

/-- Asserting reset: every state element at its value of R42. The parameters are fixed, and the model's own
fields are no part of the block. -/
def State.assertReset (s : State) : State :=
  { State.reset with
    inReset := true, params := s.params, inputs := s.inputs, draws := s.draws, reply := s.reply }

end Sys2Proof.Machine
end

