-- ==== Sys2Proof/Machine/Control.lean ====
section
/-! DEFINITION. The meaning of NOP, and what a word that is no command does (43_control.md R129, R130). -/

namespace Sys2Proof.Machine

/-- NOP does nothing but complete (R129). -/
def execNop (s : State) : Host.Outcome State Fault Refusal := present (State.signalDone .none) s

/-- A word `classify` calls ILLEGAL (R130). -/
def execIllegal (s : State) : Host.Outcome State Fault Refusal := present State.illegal s

end Sys2Proof.Machine
end

