-- ==== Sys2Proof/Machine/Convert.lean ====
section
/-! DEFINITION. The meanings of the two conversion commands, which complete in the accepting step
(42_scale_unit.md R116, R117, R126). -/

namespace Sys2Proof.Machine

/-- UNPACK_T imm16 (R116). -/
def execUnpackT (imm : Half) (s : State) : Host.Outcome State Fault Refusal :=
  present (fun t => (t.storeT (unpackSignedTenths imm)).signalDone .none) s

/-- SCALE_H imm16 (R117). -/
def execScaleH (imm : Half) (s : State) : Host.Outcome State Fault Refusal :=
  present (fun t => (t.storeH (scaleHumidityTenths imm)).signalDone .none) s

end Sys2Proof.Machine
end

