-- ==== Sys2Proof/Machine/Reads.lean ====
section
/-! DEFINITION. The meanings of the two read commands: acceptance starts the read (41_decoder.md R80, R81;
42_scale_unit.md R115), and the ticks of Sequencer carry it to its end. -/

namespace Sys2Proof.Machine

/-- READ_RAW pin, var (R80). -/
def execReadRaw (pin : PinNo) (var : Variant) (s : State) : Host.Outcome State Fault Refusal :=
  present (State.requestRead .readRaw pin var) s

/-- READ_SCALED pin, var (R115). -/
def execReadScaled (pin : PinNo) (var : Variant) (s : State) : Host.Outcome State Fault Refusal :=
  present (State.requestRead .readScaled pin var) s

end Sys2Proof.Machine
end

