-- ==== Sys2Proof/Machine/Dispatch.lean ====
section
/-! DEFINITION. exec: the meaning of a command presented to the block, one arm a constructor (43_control.md R127). -/

namespace Sys2Proof.Machine

def exec (i : Instr) (s : State) : Host.Outcome State Fault Refusal :=
  match i with
  | .nop => Sys2Proof.Machine.execNop s
  | .readRaw pin var => Sys2Proof.Machine.execReadRaw pin var s
  | .readScaled pin var => Sys2Proof.Machine.execReadScaled pin var s
  | .unpackT imm => Sys2Proof.Machine.execUnpackT imm s
  | .scaleH imm => Sys2Proof.Machine.execScaleH imm s

end Sys2Proof.Machine
end

