-- ==== Sys2Proof/Machine/Sequencer.lean ====
section
/-! DEFINITION. The tick rules of the read sequence (41_decoder.md R82 to R103), one definition a rule. -/

namespace Sys2Proof.Machine

/-! ## Steps 1 and 2: start pulse, release, handshake -/

/-- `hold_tick()` (R84). -/
def holdTick (s : State) : State :=
  let c := s.ctr + 1
  if c.toNat = tHold s.curVar then { s.releaseLine s.curPin with phase := .rel, ctr := 0 }
  else { s with ctr := c }

/-- `rel_tick()` (R85). -/
def relTick (s : State) : State :=
  let c := s.ctr + 1
  if c.toNat = s.params.tRel then { s with phase := .wlow, ctr := 0 } else { s with ctr := c }

/-- `wlow_tick(s)`: a low ends the first window; a low on its last tick is in time (R86, R146). -/
def wlowTick (lv : Level) (s : State) : State :=
  let c := s.ctr + 1
  match lv with
  | .low => { s with phase := .whigh, ctr := 0 }
  | .high =>
    if c.toNat = s.params.tWlow then { s with ctr := c }.fail .noResponse else { s with ctr := c }

/-- `start_bit()` (R88). -/
def startBit (s : State) : State := { s with mt := 0, pw := 0, msub := .skip }

/-- `whigh_tick(s)`: a high ends the second window; a high on its last tick is in time (R87, R146). -/
def whighTick (lv : Level) (s : State) : State :=
  let c := s.ctr + 1
  match lv with
  | .high => startBit { s with ctr := c, phase := .bits, bitIdx := 0 }
  | .low =>
    if c.toNat = s.params.tWhigh then { s with ctr := c }.fail .malformedHandshake
    else { s with ctr := c }

/-! ## Steps 5 and 6: checksum and unpack -/

/-- A valid frame: the results written and the read completed (R101). -/
def completeRead (f : Frame) (s : State) : State :=
  let raw := f.unpackRaw s.curVar
  let s1 := { s with rawT := raw.1, rawH := raw.2 }
  let s2 := match s.curOp with
    | .readRaw => s1
    | .readScaled => s1.scaleResults s.curVar raw.1 raw.2
  s2.complete

/-- `finish()` (R98 to R101). -/
def finish (s : State) : State :=
  let f := Frame.ofShift s.shift
  if f.valid then completeRead f s else s.fail .checksumMismatch

/-! ## Step 3: the pulse-width sampler and the frame assembler -/

/-- `end_bit(b)`: the bit stored from SHIFT[39] downward and counted (R96). -/
def endBit (b : Bool) (s : State) : State :=
  let n := s.bitIdx + 1
  let s1 := { s with shift := setFrameBit s.shift (39 - s.bitIdx.toNat) b, bitIdx := n }
  if n.toNat = nBits then finish s1 else startBit s1

/-- `skip_tick(s)` (R90). -/
def skipTick (lv : Level) (s : State) : State :=
  match lv with
  | .low => { s with msub := .rise }
  | .high => s

/-- `rise_tick(s)` (R91). -/
def riseTick (lv : Level) (s : State) : State :=
  match lv with
  | .high => { s with msub := .width, pw := 1 }
  | .low => s

/-- `width_tick(s)`: another high tick of the pulse, or its falling edge and with it the bit (R92). -/
def widthTick (lv : Level) (s : State) : State × Option Bool :=
  match lv with
  | .high => ({ s with pw := s.pw + 1 }, none)
  | .low => (s, some (bitValue s.pw))

/-- The sub-phase's rule for one sample, and the bit if the sample ends the pulse (R89). -/
def measureTick (lv : Level) (s : State) : State × Option Bool :=
  match s.msub with
  | .skip => (skipTick lv s, none)
  | .rise => (riseTick lv s, none)
  | .width => widthTick lv s

/-- `bits_tick(s)`: an edge decides the bit; otherwise the ceiling ends the measurement with 0 (R89, R94, R95). -/
def bitsTick (lv : Level) (s : State) : State :=
  match measureTick lv { s with mt := s.mt + 1 } with
  | (s1, some b) => endBit b s1
  | (s1, none) => if s1.mt.toNat = tCeil then endBit false s1 else s1

/-! ## The tick -/

/-- The rule of the current phase for the one sample of this tick (R82, R83). -/
def phaseTick (lv : Level) (s : State) : State :=
  match s.phase with
  | .idle => s
  | .hold => holdTick s
  | .rel => relTick s
  | .wlow => wlowTick lv s
  | .whigh => whighTick lv s
  | .bits => bitsTick lv s

/-- `tick()`: one sample of line CUR_PIN, kept in LINE, then the phase's rule (R82, R27). -/
def tick (pinIn : Levels) (s : State) : State :=
  let lv := s.sample pinIn s.curPin
  phaseTick lv { s with line := lv }

end Sys2Proof.Machine
end

