-- ==== Sys2Proof/Machine/Bus.lean ====
section
/-! DEFINITION. What one input does: a host access (20_memory.md R44 to R52), a tick, or the reset input
(70_reset_and_hazards.md R153, R154). -/

namespace Sys2Proof.Machine

/-- `BusWrite(0x00, v)`: rejected while BUSY without being classified, else classified and run
(43_control.md R127, R128; the order of the checks is 60_exceptions.md R145). -/
def writeCmd (v : Word) (s : State) : Host.Outcome State Fault Refusal :=
  if s.busy then .next s.rejectWrite
  else match classify s.params v with
    | .ok i => exec i s
    | .error _ => execIllegal s

/-- `BusWrite`: side effects at CMD, INT_EN and INT_PEND only (R52), and none while reset is asserted (R154). -/
def writeReg (r : Reg) (v : Word) (s : State) : Host.Outcome State Fault Refusal :=
  if s.inReset then .next s
  else match r with
    | .cmd => writeCmd v s
    | .intEn => .next (s.writeIntEn v)
    | .intPend => .next (s.writeIntPend v)
    | .status => .next s
    | .rawT => .next s
    | .rawH => .next s
    | .sclT => .next s
    | .sclH => .next s
    | .fltT => .next s
    | .fltH => .next s
    | .reserved => .next s

/-- An accepted access to a register, with its reply (R45, R131). -/
def accessReg (a : HostAccess) (r : Reg) (s : State) : Host.Outcome State Fault Refusal :=
  match a with
  | .read _ _ => .next { s with reply := some (.data (s.readReg r).lanes) }
  | .write _ lanes => writeReg r (Word.ofLanes lanes) { s with reply := some .written }

/-- One host access: outside the window it is not the block's (R44, log 5); of a wrong size or alignment it gets
the error response and has no effect (R46, log 4); else it is done (R45). -/
def hostAccess (a : HostAccess) (s : State) : Host.Outcome State Fault Refusal :=
  match windowOffset s.params a.addr with
  | none => .fault (.outsideWindow a.addr)
  | some off =>
    if accessAccepted off a.size then accessReg a (Reg.ofOffset off) s
    else .next { s with reply := some .busError }

/-- The tick strobe; while reset is asserted no tick advances the sequencer (R154). -/
def tickInput (pinIn : Levels) (s : State) : State := if s.inReset then s else tick pinIn s

/-- The reset input: asserting it sets the reset state (R153); releasing it lets the block run (R155). -/
def resetInput (asserted : Bool) (s : State) : State :=
  if asserted then s.assertReset else { s with inReset := false }

/-- What one input does to the block. -/
def applyInput (inp : Input) (s : State) : Host.Outcome State Fault Refusal :=
  match inp with
  | .host a => hostAccess a s
  | .tick pinIn => .next (tickInput pinIn s)
  | .resetLine asserted => .next (resetInput asserted s)

/-- Takes the next input: the oldest one lined up, or a free one when there is none (R55, log 2). -/
def nextInput (s : State) : Input × State :=
  match s.inputs with
  | inp :: rest => (inp, { s with inputs := rest })
  | [] => (Config.freeInput s.draws, { s with draws := s.draws + 1 })

/-- The host's access `WR CMD, v` as the bus carries it (30_encoding.md R77, R78). -/
def cmdWrite (p : Params) (v : Word) : HostAccess := .write p.regBase v.lanes

end Sys2Proof.Machine
end

