-- ==== Sys2Proof/Machine/Step.lean ====
section
/-! DEFINITION. One step of the machine: it takes the next input and does what it says (20_memory.md R55). -/

namespace Sys2Proof.Machine

/-- One atomic step. A state whose parameters are out of range is no block (92_eei_decisions.md D32, log 7). -/
def step (s : State) : Host.Outcome State Fault Refusal :=
  if s.params.legal then applyInput (nextInput s).1 (nextInput s).2
  else .refused .parametersOutOfRange

/-- The state whose next input is the host's write of the word `w` to CMD: how a command reaches a block that
fetches nothing (R59; log 3). -/
def State.withFetchWord (s : State) (nbits w : Nat) : State :=
  { s with
    inputs := .host (cmdWrite s.params (BitVec.ofNat 32 (w % 2 ^ nbits))) :: s.inputs }

end Sys2Proof.Machine
end

