-- ==== Sys2Proof/Safety.lean ====
section
/-! DEFINITION. What claims about the block are made of: the invariant every step keeps, what it means that a group
of registers is unchanged, runs of ticks, and the value of a binary32 pattern. -/

namespace Sys2Proof.Machine

/-! ## Groups of registers -/

/-- The temperature half of the scaled results is unchanged (R123). -/
def SameScaledT (s t : State) : Prop := t.sclT = s.sclT ∧ t.tdiv = s.tdiv ∧ t.fltT = s.fltT

/-- The humidity half of the scaled results is unchanged (R123). -/
def SameScaledH (s t : State) : Prop := t.sclH = s.sclH ∧ t.hdiv = s.hdiv ∧ t.fltH = s.fltH

/-- RAW_T and RAW_H are unchanged. -/
def SameRaw (s t : State) : Prop := t.rawT = s.rawT ∧ t.rawH = s.rawH

/-- Every result register is unchanged: RAW_*, SCL_*, FLT_*, TDIV and HDIV (R102, R143). -/
def SameResults (s t : State) : Prop := SameRaw s t ∧ SameScaledT s t ∧ SameScaledH s t

/-- PINMODE and PINLVL of every line are unchanged. -/
def SamePins (s t : State) : Prop := t.pinMode = s.pinMode ∧ t.pinLvl = s.pinLvl

/-- What a read latches is unchanged: CUR_PIN, CUR_VAR and CUR_OP (R21). -/
def SameLatched (s t : State) : Prop :=
  t.curPin = s.curPin ∧ t.curVar = s.curVar ∧ t.curOp = s.curOp

/-- Every element of the sequencer is unchanged: PHASE, the counters, SHIFT, the latched operands and LINE. -/
def SameSequencer (s t : State) : Prop :=
  t.phase = s.phase ∧ t.ctr = s.ctr ∧ t.mt = s.mt ∧ t.pw = s.pw ∧ t.msub = s.msub ∧
  t.bitIdx = s.bitIdx ∧ t.shift = s.shift ∧ SameLatched s t ∧ t.line = s.line

/-- The parameters, the reset input and the model's own fields are unchanged. -/
def SameSurroundings (s t : State) : Prop :=
  t.params = s.params ∧ t.inReset = s.inReset ∧ t.inputs = s.inputs ∧ t.draws = s.draws ∧
  t.reply = s.reply

/-! ## The invariant -/

/-- What PINMODE and PINLVL of a line are in a legal state: Output and Low for the line a read holds low,
Input and High for every other (R25, R104). -/
def State.padOf (s : State) (p : PinNo) : PinMode × Level :=
  if s.phase = .hold ∧ p = s.curPin then (.output, .low) else (.input, .high)

/-- The bound of the counter the current phase runs (R19, R84 to R87, R89). -/
def State.counterInRange (s : State) : Prop :=
  match s.phase with
  | .idle => True
  | .hold => s.ctr.toNat < tHold s.curVar
  | .rel => s.ctr.toNat < s.params.tRel
  | .wlow => s.ctr.toNat < s.params.tWlow
  | .whigh => s.ctr.toNat < s.params.tWhigh
  | .bits => s.mt.toNat < tCeil ∧ s.bitIdx.toNat < nBits

/-- The denominator a DIV flag stands for (R23). -/
def divisor (tenths : Bool) : Nat := if tenths then 10 else 1

/-- The invariant of the block: it holds at reset and every step keeps it. -/
structure State.Inv (s : State) : Prop where
  /-- The parameters are in their ranges (R8). -/
  legal : s.params.legal = true
  /-- The latched line exists (R66). -/
  curPinExists : s.curPin.toNat < s.params.nPins
  /-- Every line is Input and High but for the one a read holds low (R25, R104). -/
  pads : ∀ p : PinNo, (s.pinModeAt p, s.pinLvlAt p) = s.padOf p
  /-- While a read runs, DONE and ERR are as acceptance left them (R28, R127). -/
  runningStatus : s.phase ≠ .idle → s.done = false ∧ s.err = .none
  /-- The running counter is below its bound. -/
  counters : s.counterInRange
  /-- CTR's bound (R19). -/
  ctrBound : s.ctr.toNat ≤ max 18000 (max s.params.tRel (max s.params.tWlow s.params.tWhigh))
  /-- MT's bound (R19). -/
  mtBound : s.mt.toNat ≤ tCeil
  /-- A pulse is no longer than its measurement (R19). -/
  pwBound : s.pw.toNat ≤ s.mt.toNat
  /-- BITIDX counts 0 to 40 (R19). -/
  bitIdxBound : s.bitIdx.toNat ≤ nBits
  /-- Before BITS no bit has been measured (R81). -/
  notMeasuring : s.phase = .hold ∨ s.phase = .rel ∨ s.phase = .wlow ∨ s.phase = .whigh →
    s.bitIdx = 0 ∧ s.mt = 0 ∧ s.pw = 0 ∧ s.msub = .skip
  /-- A pulse being measured has been seen high (R91). -/
  pulseSeen : s.phase = .bits → s.msub = .width → 1 ≤ s.pw.toNat
  /-- The bits not yet received are 0 in SHIFT (R20, R81). -/
  shiftClear : ∀ k, k + s.bitIdx.toNat < nBits → s.shift.getLsbD k = false
  /-- FLT_T is the float of SCL_T and TDIV (R24). -/
  floatT : s.fltT = f32 s.sclT.toInt (divisor s.tdiv)
  /-- FLT_H is the float of SCL_H and HDIV (R24). -/
  floatH : s.fltH = f32 s.sclH.toInt (divisor s.hdiv)
  /-- SCL_T is in the unit's range (R113). -/
  rangeT : if s.tdiv then -32767 ≤ s.sclT.toInt ∧ s.sclT.toInt ≤ 32767
    else 0 ≤ s.sclT.toInt ∧ s.sclT.toInt ≤ 255
  /-- SCL_H is in the unit's range (R113). -/
  rangeH : if s.hdiv then -32768 ≤ s.sclH.toInt ∧ s.sclH.toInt ≤ 32767
    else 0 ≤ s.sclH.toInt ∧ s.sclH.toInt ≤ 255
  /-- While reset is asserted the block is in its reset state (R153, R154). -/
  resetHeld : s.inReset = true → s = s.assertReset

/-! ## Runs of ticks -/

/-- The block after ticks with the given line levels, no host access between them. -/
def ticks (lvs : List Levels) (s : State) : State := lvs.foldl (fun t lv => tick lv t) s

/-- Every line at one level: what a tick is given where only line CUR_PIN matters. -/
def allLines (lv : Level) : Levels := Vector.replicate maxLines lv

/-- `n` ticks with every line at one level. -/
def steady (lv : Level) (n : Nat) : List Levels := List.replicate n (allLines lv)

/-- One bit on the wire as a measurement sees it: `skip` ticks of a high already present, `low` ticks low, the
pulse of `high` ticks, and the tick that samples its falling edge (R90 to R92). -/
structure Pulse where
  skip : Nat
  low : Nat
  high : Nat
  deriving DecidableEq, Repr

/-- The line levels of one measurement. -/
def Pulse.wave (p : Pulse) : List Levels :=
  steady .high p.skip ++ steady .low p.low ++ steady .high p.high ++ steady .low 1

/-- The falling edge comes no later than the ceiling, and the pulse has a low before it (R90, R91, R95). -/
def Pulse.fits (p : Pulse) : Prop :=
  1 ≤ p.low ∧ 1 ≤ p.high ∧ p.skip + p.low + p.high + 1 ≤ tCeil

/-! ## The value of a binary32 pattern (30_encoding.md R79) -/

/-- Whether the pattern is a number: not an infinity and not a NaN. -/
def floatFinite (w : Word) : Prop := (w.extractLsb' 23 8).toNat ≠ 255

/-- The number a finite pattern stands for (R79; the form for exponent 0 is IEEE 754's, which R79 gives only for
zero; log 11). -/
def floatValue (w : Word) : ℚ :=
  let e := (w.extractLsb' 23 8).toNat
  let f : ℚ := ((w.extractLsb' 0 23).toNat : ℚ)
  let m : ℚ := if e = 0 then f * 2 ^ (-149 : ℤ) else (2 ^ 23 + f) * 2 ^ ((e : ℤ) - 150)
  if w.msb then -m else m

end Sys2Proof.Machine
end

