-- ==== Sys2Proof/Certificates/Slice0/Obligations.lean ====
section
/-! DEFINITION. The statements about the block. Each docstring names the rule of spec/ it formalises. The spec
marks most of its rules "[decision: …]": they are its own choices, normative for this block, and the
statements take them as the spec gives them (log 13). -/

open Sys2Proof Sys2Proof.Machine

/-! ## Encoding -/

/-- A command's word decodes to that command, with every operand at every value its field admits, and no other
word does. -/
def Obligations.DecodeInvertsEncode : Prop :=
  ∀ i : Instr, decode (encode i) = .ok i ∧ ∀ v : Word, decode v = .ok i → v = encode i

/-- `classify` (R68), said by the match and mask of each row of opcode_table.json: the word's bits under the mask
are the row's, the operands are the fields, and a read names an existing line. -/
def Obligations.ClassifyAgreesWithOpcodeTable : Prop :=
  ∀ (p : Params) (v : Word),
    (classify p v = .ok .nop ↔ v = 0x00000000#32) ∧
    (∀ pin var, classify p v = .ok (.readRaw pin var) ↔
      v &&& 0xFFFFF0EF#32 = 0x00000001#32 ∧ pin = v.extractLsb' 8 4 ∧
      (var = .fine ↔ v.getLsbD 4 = true) ∧ pin.toNat < p.nPins) ∧
    (∀ pin var, classify p v = .ok (.readScaled pin var) ↔
      v &&& 0xFFFFF0EF#32 = 0x00000002#32 ∧ pin = v.extractLsb' 8 4 ∧
      (var = .fine ↔ v.getLsbD 4 = true) ∧ pin.toNat < p.nPins) ∧
    (∀ imm, classify p v = .ok (.unpackT imm) ↔
      v &&& 0x0000FFFF#32 = 0x00000003#32 ∧ imm = v.extractLsb' 16 16) ∧
    (∀ imm, classify p v = .ok (.scaleH imm) ↔
      v &&& 0x0000FFFF#32 = 0x00000004#32 ∧ imm = v.extractLsb' 16 16)

/-- The example words of 30_encoding.md R76, of 43_control.md R130 and of V-C8, decoded, and R130's read of a missing
line, classified where there is one line. -/
def Obligations.ExampleWordsDecode : Prop :=
  decode 0x00000000#32 = .ok .nop ∧
  decode 0x00000011#32 = .ok (.readRaw 0#4 .fine) ∧
  decode 0x00000311#32 = .ok (.readRaw 3#4 .fine) ∧
  decode 0x00000002#32 = .ok (.readScaled 0#4 .coarse) ∧
  decode 0x00000012#32 = .ok (.readScaled 0#4 .fine) ∧
  decode 0x80320003#32 = .ok (.unpackT 0x8032#16) ∧
  decode 0x01F40004#32 = .ok (.scaleH 0x01F4#16) ∧
  decode 0x00000005#32 = .error .reservedOp ∧
  decode 0x00000021#32 = .error .reservedBits ∧
  decode 0x00010011#32 = .error .reservedBits ∧
  decode 0x00000013#32 = .error .reservedBits ∧
  classify Params.default 0x00000101#32 = .error .pinOutOfRange

/-! ## Reset and the invariant -/

/-- R42: State.reset, and what asserting the reset input leaves in any state, has every element at its reset value. -/
def Obligations.ResetStateIsTheResetTable : Prop :=
  ∀ t : State,
    (t = State.reset ∨
      ∃ (s : State) (rest : List Input), s.inputs = .resetLine true :: rest ∧ step s = .next t) →
    t.phase = .idle ∧ t.ctr = 0 ∧ t.mt = 0 ∧ t.pw = 0 ∧ t.msub = .skip ∧ t.bitIdx = 0 ∧ t.shift = 0 ∧
    t.curPin = 0 ∧ t.curVar = .coarse ∧ t.curOp = .readRaw ∧
    t.rawT = 0x0000#16 ∧ t.rawH = 0x0000#16 ∧ t.sclT = 0x00000000#32 ∧ t.sclH = 0x00000000#32 ∧
    t.fltT = 0x00000000#32 ∧ t.fltH = 0x00000000#32 ∧ t.tdiv = false ∧ t.hdiv = false ∧
    (∀ p : PinNo, t.pinModeAt p = .input ∧ t.pinLvlAt p = .high) ∧
    t.line = .high ∧ t.done = false ∧ t.rej = false ∧ t.err = .none ∧
    t.doneIE = false ∧ t.doneIP = false

/-- The invariant holds at reset. It takes in the model's own parameters' defaults (log 1). -/
def Obligations.ResetMeetsInvariant : Prop := State.reset.Inv

/-- Every step keeps the invariant, from every state that meets it, and the parameters: the pins stay Input and
High but for the line a read holds low, no counter passes its bound, DONE and ERR stay clear while a read runs,
and the floats stay those of the numerators. -/
def Obligations.StepKeepsInvariant : Prop :=
  ∀ s t : State, s.Inv → step s = .next t → t.Inv ∧ t.params = s.params

/-- R153: asserting reset sets every element to its value of R42 from every state, a read in progress being lost. -/
def Obligations.AssertedResetSetsResetState : Prop :=
  ∀ (s : State) (rest : List Input),
    s.params.legal = true → s.inputs = .resetLine true :: rest →
    ∃ t : State, step s = .next t ∧
      t = { State.reset with
            inReset := true, params := s.params, inputs := rest, draws := s.draws, reply := s.reply } ∧
      t.irq = false ∧ t.crit = false ∧ t.done = false ∧ t.doneIP = false ∧
      (∀ p : PinNo, t.pinModeAt p = .input ∧ t.pinLvlAt p = .high)

/-- R154: while reset is asserted a tick changes nothing, a host write has no effect but the bus's reply, and a
read returns the register's reset value. -/
def Obligations.AssertedResetHoldsBlock : Prop :=
  ∀ (s : State) (rest : List Input), s.Inv → s.inReset = true →
    (∀ lv, s.inputs = .tick lv :: rest → step s = .next { s with inputs := rest }) ∧
    (∀ (off : Nat) (v : Word), off < 64 → off % 4 = 0 →
      s.inputs = .host (.write (s.params.regBase + off) v.lanes) :: rest →
      step s = .next { s with inputs := rest, reply := some .written }) ∧
    (∀ off : Nat, off < 64 → off % 4 = 0 →
      s.inputs = .host (.read (s.params.regBase + off) 4) :: rest →
      step s = .next { s with
        inputs := rest
        reply := some (.data (State.reset.readReg (Reg.ofOffset off)).lanes) })

/-! ## The step, host accesses and the register map -/

/-- A CMD write of a word that decodes to a well-formed command runs exactly that command's exec, in the state with
the access taken and answered. -/
def Obligations.StepRunsWellFormedCommand : Prop :=
  ∀ (s : State) (rest : List Input) (v : Word) (i : Instr),
    s.params.legal = true → s.inReset = false → s.phase = .idle →
    s.inputs = .host (.write s.params.regBase v.lanes) :: rest →
    decode v = .ok i → i.wellFormed s.params = true →
    step s = exec i { s with inputs := rest, reply := some .written }

/-- A step takes the oldest input lined up, and a tick among them runs the tick rule; when none is lined up it
takes the free one (the model's choice, log 2). -/
def Obligations.StepTakesOldestInput : Prop :=
  ∀ (s : State), s.params.legal = true →
    (∀ lv rest, s.inReset = false → s.inputs = .tick lv :: rest →
      step s = .next (tick lv { s with inputs := rest })) ∧
    (∀ rest, s.inputs = .resetLine false :: rest →
      step s = .next { s with inputs := rest, inReset := false }) ∧
    (s.inputs = [] → step s = applyInput (Config.freeInput s.draws) { s with draws := s.draws + 1 })

/-- R128: a CMD write while BUSY sets REJ and changes nothing else, whatever the word. -/
def Obligations.CommandWriteWhileBusyIsRejected : Prop :=
  ∀ (s : State) (rest : List Input) (v : Word),
    s.params.legal = true → s.inReset = false → s.phase ≠ .idle →
    s.inputs = .host (.write s.params.regBase v.lanes) :: rest →
    step s = .next { s with inputs := rest, reply := some .written, rej := true }

/-- R130: an accepted word that matches no row of opcode_table.json, or a read word whose PIN is not below N_PINS,
completes at once with ILLEGAL_CMD and changes no other element of the block. -/
def Obligations.IllegalWordCompletesWithError : Prop :=
  ∀ (s : State) (rest : List Input) (v : Word),
    s.params.legal = true → s.inReset = false → s.phase = .idle →
    s.inputs = .host (.write s.params.regBase v.lanes) :: rest →
    ((∀ i : Instr, i.row.covers v = false) ∨
      (∃ pin var, (v = encode (.readRaw pin var) ∨ v = encode (.readScaled pin var)) ∧
        s.params.nPins ≤ pin.toNat)) →
    step s = .next { s with
      inputs := rest, reply := some .written
      rej := false, err := .illegalCmd, done := true, doneIP := true }

/-- R46: an access in the window of the wrong size or alignment gets the bus error and has no effect on the block.
The error is a reply without data, and the machine goes on (log 4). -/
def Obligations.WrongSizeOrAlignmentGetsBusError : Prop :=
  ∀ (s : State) (rest : List Input) (a : HostAccess),
    s.params.legal = true → s.inputs = .host a :: rest →
    s.params.regBase ≤ a.addr → a.addr < s.params.regBase + 64 →
    (a.size ≠ 4 ∨ (a.addr - s.params.regBase) % 4 ≠ 0) →
    step s = .next { s with inputs := rest, reply := some .busError }

/-- An access outside the window stops the model by name: R44 leaves it to the platform (the model's choice, log 5). -/
def Obligations.AccessOutsideWindowStops : Prop :=
  ∀ (s : State) (rest : List Input) (a : HostAccess),
    s.params.legal = true → s.inputs = .host a :: rest →
    (a.addr < s.params.regBase ∨ s.params.regBase + 64 ≤ a.addr) →
    step s = .fault (.outsideWindow a.addr)

/-- R33: the STATUS word a read of offset 0x04 returns has these fields, and a write there is ignored. -/
def Obligations.StatusReadsItsFields : Prop :=
  ∀ (s : State) (rest : List Input), s.params.legal = true →
    (s.inputs = .host (.read (s.params.regBase + 0x04) 4) :: rest →
      ∃ w : Word, step s = .next { s with inputs := rest, reply := some (.data w.lanes) } ∧
        (w.getLsbD 0 = true ↔ s.phase ≠ .idle) ∧ w.getLsbD 1 = s.done ∧ w.getLsbD 2 = s.rej ∧
        (w.getLsbD 3 = true ↔
          s.phase = .rel ∨ s.phase = .wlow ∨ s.phase = .whigh ∨ s.phase = .bits) ∧
        w.extractLsb' 4 3 = (match s.err with
          | .none => 0
          | .noResponse => 1
          | .malformedHandshake => 2
          | .checksumMismatch => 3
          | .illegalCmd => 4) ∧
        (w.getLsbD 7 = true ↔ s.line = .high) ∧
        w.getLsbD 8 = s.tdiv ∧ w.getLsbD 9 = s.hdiv ∧
        (w.getLsbD 10 = true ↔ s.curVar = .fine) ∧ w.getLsbD 11 = false ∧
        w.extractLsb' 12 3 = (match s.phase with
          | .idle => 0
          | .hold => 1
          | .rel => 2
          | .wlow => 3
          | .whigh => 4
          | .bits => 5) ∧
        w.getLsbD 15 = false ∧
        w.extractLsb' 16 6 = s.bitIdx ∧ w.extractLsb' 22 4 = s.curPin ∧ w.extractLsb' 26 6 = 0) ∧
    (∀ v : Word, s.inputs = .host (.write (s.params.regBase + 0x04) v.lanes) :: rest →
      step s = .next { s with inputs := rest, reply := some .written })

/-- R36, R37, R38: each result register reads as its value, RAW_* extended with zeros, and ignores writes. -/
def Obligations.ResultRegistersReadAndIgnoreWrites : Prop :=
  ∀ (s : State) (rest : List Input) (off : Nat) (w : Word), s.params.legal = true →
    (off, w) ∈ [(0x10, 0#16 ++ s.rawT), (0x14, 0#16 ++ s.rawH), (0x18, s.sclT), (0x1C, s.sclH),
      (0x20, s.fltT), (0x24, s.fltH)] →
    (s.inputs = .host (.read (s.params.regBase + off) 4) :: rest →
      step s = .next { s with inputs := rest, reply := some (.data w.lanes) }) ∧
    (∀ v : Word, s.inputs = .host (.write (s.params.regBase + off) v.lanes) :: rest →
      step s = .next { s with inputs := rest, reply := some .written })

/-- R32 and R39: CMD and the reserved offsets read as 0 without side effect, and a write to a reserved offset is
ignored. -/
def Obligations.CmdAndReservedOffsetsReadZero : Prop :=
  ∀ (s : State) (rest : List Input) (off : Nat), s.params.legal = true →
    (off = 0 ∨ (0x28 ≤ off ∧ off ≤ 0x3C ∧ off % 4 = 0)) →
    (s.inputs = .host (.read (s.params.regBase + off) 4) :: rest →
      step s = .next { s with inputs := rest, reply := some (.data [0, 0, 0, 0]) }) ∧
    (∀ v : Word, off ≠ 0 → s.inputs = .host (.write (s.params.regBase + off) v.lanes) :: rest →
      step s = .next { s with inputs := rest, reply := some .written })

/-- R34: INT_EN reads as DONE_IE in bit 0, and a write sets DONE_IE to its bit 0 and ignores the rest; irq follows at
once (R132). -/
def Obligations.IntEnHoldsDoneIE : Prop :=
  ∀ (s : State) (rest : List Input), s.params.legal = true →
    (s.inputs = .host (.read (s.params.regBase + 0x08) 4) :: rest →
      step s = .next { s with
        inputs := rest
        reply := some (.data (if s.doneIE then [1, 0, 0, 0] else [0, 0, 0, 0])) }) ∧
    (∀ v : Word, s.inReset = false →
      s.inputs = .host (.write (s.params.regBase + 0x08) v.lanes) :: rest →
      ∃ t : State, step s = .next t ∧
        t = { s with inputs := rest, reply := some .written, doneIE := v.getLsbD 0 } ∧
        (t.irq = true ↔ v.getLsbD 0 = true ∧ s.doneIP = true))

/-- R35: INT_PEND reads as DONE_IP in bit 0; a write with bit 0 set clears DONE_IP, any other leaves it; irq falls with
DONE_IP (R144). -/
def Obligations.IntPendHoldsDoneIP : Prop :=
  ∀ (s : State) (rest : List Input), s.params.legal = true →
    (s.inputs = .host (.read (s.params.regBase + 0x0C) 4) :: rest →
      step s = .next { s with
        inputs := rest
        reply := some (.data (if s.doneIP then [1, 0, 0, 0] else [0, 0, 0, 0])) }) ∧
    (∀ v : Word, s.inReset = false →
      s.inputs = .host (.write (s.params.regBase + 0x0C) v.lanes) :: rest →
      ∃ t : State, step s = .next t ∧
        t = { s with
          inputs := rest, reply := some .written
          doneIP := if v.getLsbD 0 then false else s.doneIP } ∧
        (t.irq = true ↔ v.getLsbD 0 = false ∧ s.doneIE = true ∧ s.doneIP = true))

/-- R62: while a read runs, a host access changes nothing of the sequencer, the pins, the results, DONE or ERR, and
the tick after it does to them exactly what it would have done without it. -/
def Obligations.HostAccessLeavesRunningReadAlone : Prop :=
  ∀ (s t : State) (a : HostAccess) (lv : Levels),
    s.phase ≠ .idle → applyInput (.host a) s = .next t →
    (SameSequencer s t ∧ SamePins s t ∧ SameResults s t ∧ t.done = s.done ∧ t.err = s.err) ∧
    (SameSequencer (tick lv s) (tick lv t) ∧ SamePins (tick lv s) (tick lv t) ∧
      SameResults (tick lv s) (tick lv t) ∧ (tick lv t).done = (tick lv s).done ∧
      (tick lv t).err = (tick lv s).err)

/-! ## The commands -/

/-- R129: NOP completes and changes nothing else. -/
def Obligations.NopOnlyCompletes : Prop :=
  ∀ s : State, s.phase = .idle →
    exec .nop s = .next { s with rej := false, err := .none, done := true, doneIP := true }

/-- R111: UNPACK_T reads its pattern as sign and magnitude, in tenths. It writes the value and its float, 0x8000 giving
positive zero, completes, and changes nothing else. -/
def Obligations.UnpackTResult : Prop :=
  ∀ (s : State) (r : Half), s.phase = .idle →
    exec (.unpackT r) s = .next { s with
      sclT := BitVec.ofInt 32
        (if 0x8000 ≤ r.toNat then -((r.toNat - 0x8000 : Nat) : Int) else (r.toNat : Int))
      tdiv := true
      fltT := f32
        (if 0x8000 ≤ r.toNat then -((r.toNat - 0x8000 : Nat) : Int) else (r.toNat : Int)) 10
      rej := false, err := .none, done := true, doneIP := true }

/-- R112: SCALE_H reads its pattern in two's complement, in tenths. It writes the value and its float, completes, and
changes nothing else. -/
def Obligations.ScaleHResult : Prop :=
  ∀ (s : State) (r : Half), s.phase = .idle →
    exec (.scaleH r) s = .next { s with
      sclH := BitVec.ofInt 32
        (if 0x8000 ≤ r.toNat then (r.toNat : Int) - 0x10000 else (r.toNat : Int))
      hdiv := true
      fltH := f32 (if 0x8000 ≤ r.toNat then (r.toNat : Int) - 0x10000 else (r.toNat : Int)) 10
      rej := false, err := .none, done := true, doneIP := true }

/-- R81: an accepted read of an existing line latches its operands, drives that line low and starts in HOLD with the
frame and the counters cleared; every other element is unchanged but the flags acceptance clears (R127). The line then
samples 0 at every tick until its release. -/
def Obligations.AcceptedReadStarts : Prop :=
  ∀ (s : State) (pin : PinNo) (var : Variant), s.phase = .idle → pin.toNat < s.params.nPins →
    ∃ t : State,
      exec (.readRaw pin var) s = .next { t with curOp := .readRaw } ∧
      exec (.readScaled pin var) s = .next { t with curOp := .readScaled } ∧
      (∀ p, t.pinModeAt p = if p = pin then .output else s.pinModeAt p) ∧
      (∀ p, t.pinLvlAt p = if p = pin then .low else s.pinLvlAt p) ∧
      (∀ lvs : List Levels, lvs ≠ [] → lvs.length ≤ tHold var → (ticks lvs t).line = .low) ∧
      t = { s with
        curOp := t.curOp, curPin := pin, curVar := var
        pinMode := t.pinMode, pinLvl := t.pinLvl
        phase := .hold, ctr := 0, bitIdx := 0, shift := 0, msub := .skip, mt := 0, pw := 0
        done := false, rej := false, err := .none }

/-- A read that names no line completes with ILLEGAL_CMD, drives no line and latches nothing (R66, U3). -/
def Obligations.ReadOfMissingLineIsIllegal : Prop :=
  ∀ (s : State) (pin : PinNo) (var : Variant) (i : Instr),
    i = .readRaw pin var ∨ i = .readScaled pin var → s.phase = .idle → s.params.nPins ≤ pin.toNat →
    exec i s = .next { s with rej := false, err := .illegalCmd, done := true, doneIP := true }

/-- Each command presented while BUSY sets REJ and changes nothing else (R128 at exec, log 9). -/
def Obligations.EveryCommandWhileBusyOnlySetsRej : Prop :=
  ∀ (i : Instr) (s : State), s.phase ≠ .idle → exec i s = .next { s with rej := true }

/-- The frame of every command: the raw results, LINE, DONE_IE, the parameters and the model's own fields never
change; each scaled half only by its own conversion (R123); the pins and the rest of the sequencer only by a read
that starts; and DONE_IP is never cleared (R127). -/
def Obligations.CommandFrame : Prop :=
  ∀ (i : Instr) (s t : State), exec i s = .next t →
    SameRaw s t ∧ t.line = s.line ∧ t.doneIE = s.doneIE ∧ SameSurroundings s t ∧
    (s.doneIP = true → t.doneIP = true) ∧
    ((∀ r, i ≠ .unpackT r) → SameScaledT s t) ∧
    ((∀ r, i ≠ .scaleH r) → SameScaledH s t) ∧
    (t.phase = s.phase → SamePins s t ∧ SameSequencer s t) ∧
    (t.phase ≠ s.phase → s.phase = .idle ∧ t.phase = .hold ∧
      ∃ pin var, (i = .readRaw pin var ∨ i = .readScaled pin var) ∧
        ∀ p, p ≠ pin → t.pinModeAt p = s.pinModeAt p ∧ t.pinLvlAt p = s.pinLvlAt p)

/-- A conversion command written twice leaves what it left written once (R121). -/
def Obligations.ConversionsAreIdempotent : Prop :=
  ∀ (s t : State) (r : Half), s.phase = .idle →
    (exec (.unpackT r) s = .next t → exec (.unpackT r) t = .next t) ∧
    (exec (.scaleH r) s = .next t → exec (.scaleH r) t = .next t)

/-! ## The tick -/

/-- R83: in IDLE a tick changes only LINE. -/
def Obligations.IdleTickChangesOnlyLine : Prop :=
  ∀ (s : State) (lv : Levels), s.phase = .idle →
    tick lv s = { s with line := s.sample lv s.curPin }

/-- R27 with R26: at every tick, whatever the phase, LINE becomes the sample of line CUR_PIN; it is Low where the
block drives the line low and the environment's level everywhere else. -/
def Obligations.LineHoldsSampleOfCurrentPin : Prop :=
  ∀ (s : State) (lv : Levels),
    (tick lv s).line =
      if s.pinModeAt s.curPin = .output ∧ s.pinLvlAt s.curPin = .low then .low
      else lv[s.curPin.toNat]'s.curPin.isLt

/-- R84: from the start of HOLD the line stays driven low and samples Low for `T_HOLD(var)` ticks (18000 coarse, 1200
fine), whatever the environment does, and it is released at the end of the last of them; only CTR, LINE, PHASE and
that line's pad change. -/
def Obligations.StartPulseLastsHoldTime : Prop :=
  ∀ (s : State) (lvs : List Levels),
    s.phase = .hold → s.ctr = 0 → s.pinModeAt s.curPin = .output → s.pinLvlAt s.curPin = .low →
    let n := match s.curVar with
      | .coarse => 18000
      | .fine => 1200
    (lvs.length < n → ticks lvs s = { s with
      ctr := BitVec.ofNat 16 lvs.length
      line := if lvs = [] then s.line else .low }) ∧
    (lvs.length = n →
      let t := ticks lvs s
      t = { s with
        phase := .rel, ctr := 0, line := .low, pinMode := t.pinMode, pinLvl := t.pinLvl } ∧
      (∀ p, t.pinModeAt p = if p = s.curPin then .input else s.pinModeAt p) ∧
      (∀ p, t.pinLvlAt p = if p = s.curPin then .high else s.pinLvlAt p))

/-- R85: REL counts T_REL ticks, whatever it samples, and then opens the first window; a low still present at that
window's first tick is seen there. -/
def Obligations.RelTickCountsReleaseTime : Prop :=
  ∀ (s : State) (lv : Levels), s.phase = .rel →
    (tick lv s =
      if (s.ctr + 1).toNat = s.params.tRel then
        { s with line := s.sample lv s.curPin, phase := .wlow, ctr := 0 }
      else { s with line := s.sample lv s.curPin, ctr := s.ctr + 1 }) ∧
    ((s.ctr + 1).toNat = s.params.tRel → ∀ lv' : Levels, s.sample lv' s.curPin = .low →
      tick lv' (tick lv s) = { s with line := .low, phase := .whigh, ctr := 0 })

/-- R86: in WLOW a low sample opens the second window, also on the last tick; else the window's last tick fails with
NO_RESPONSE, which releases the line and writes no result (R102). -/
def Obligations.FirstWindowTick : Prop :=
  ∀ (s : State) (lv : Levels), s.phase = .wlow →
    let t := tick lv s
    (s.sample lv s.curPin = .low → t = { s with line := .low, phase := .whigh, ctr := 0 }) ∧
    (s.sample lv s.curPin = .high → (s.ctr + 1).toNat ≠ s.params.tWlow →
      t = { s with line := .high, ctr := s.ctr + 1 }) ∧
    (s.sample lv s.curPin = .high → (s.ctr + 1).toNat = s.params.tWlow →
      t = { s with
        line := .high, ctr := s.ctr + 1, phase := .idle, err := .noResponse, done := true
        doneIP := true, pinMode := t.pinMode, pinLvl := t.pinLvl } ∧
      (∀ p, t.pinModeAt p = if p = s.curPin then .input else s.pinModeAt p) ∧
      (∀ p, t.pinLvlAt p = if p = s.curPin then .high else s.pinLvlAt p))

/-- R87: in WHIGH a high sample starts the bits, also on the last tick; else the window's last tick fails with
MALFORMED_HANDSHAKE, which releases the line and writes no result (R102). -/
def Obligations.SecondWindowTick : Prop :=
  ∀ (s : State) (lv : Levels), s.phase = .whigh →
    let t := tick lv s
    (s.sample lv s.curPin = .high →
      t = { s with
        line := .high, ctr := s.ctr + 1, phase := .bits, bitIdx := 0, mt := 0, pw := 0, msub := .skip }) ∧
    (s.sample lv s.curPin = .low → (s.ctr + 1).toNat ≠ s.params.tWhigh →
      t = { s with line := .low, ctr := s.ctr + 1 }) ∧
    (s.sample lv s.curPin = .low → (s.ctr + 1).toNat = s.params.tWhigh →
      t = { s with
        line := .low, ctr := s.ctr + 1, phase := .idle, err := .malformedHandshake, done := true
        doneIP := true, pinMode := t.pinMode, pinLvl := t.pinLvl } ∧
      (∀ p, t.pinModeAt p = if p = s.curPin then .input else s.pinModeAt p) ∧
      (∀ p, t.pinLvlAt p = if p = s.curPin then .high else s.pinLvlAt p))

/-- R90 to R93: below the ceiling, a tick in BITS that ends no pulse moves SKIP to RISE on a low, RISE to WIDTH on a
high with PW = 1, counts a further high of the pulse, and otherwise waits; MT counts every tick. The pulse's falling
edge ends the measurement, the frame's last one included, with the bit `PW > 30`. -/
def Obligations.SubPhaseTickBelowCeiling : Prop :=
  ∀ (s : State) (lv : Levels), s.phase = .bits → (s.mt + 1).toNat ≠ 1000 →
    let l := s.sample lv s.curPin
    let u := { s with line := l, mt := s.mt + 1 }
    (s.msub = .skip → tick lv s = if l = .low then { u with msub := .rise } else u) ∧
    (s.msub = .rise → tick lv s = if l = .high then { u with msub := .width, pw := 1 } else u) ∧
    (s.msub = .width → l = .high → tick lv s = { u with pw := s.pw + 1 }) ∧
    (s.msub = .width → l = .low → tick lv s = endBit (decide (30 < s.pw.toNat)) u)

/-- R94 and R95: the tick at which MT reaches 1000 ends the measurement. The bit is 0, unless that tick samples the
pulse's falling edge: then the edge decides. A measurement that is not the frame's last raises no error, and the last
one only what the finished frame gives. -/
def Obligations.CeilingEndsMeasurement : Prop :=
  ∀ (s : State) (lv : Levels), s.phase = .bits → (s.mt + 1).toNat = 1000 → s.bitIdx.toNat < 40 →
    let t := tick lv s
    (∀ k < 40, t.shift.getLsbD k =
      if k = 39 - s.bitIdx.toNat then
        decide (s.msub = .width ∧ s.sample lv s.curPin = .low ∧ 30 < s.pw.toNat)
      else s.shift.getLsbD k) ∧
    t.bitIdx = s.bitIdx + 1 ∧
    (s.bitIdx.toNat < 39 → t = { s with
      line := s.sample lv s.curPin, shift := t.shift, bitIdx := s.bitIdx + 1
      mt := 0, pw := 0, msub := .skip }) ∧
    (s.bitIdx.toNat = 39 →
      t = finish { s with
        line := s.sample lv s.curPin, shift := t.shift, bitIdx := 40
        mt := s.mt + 1, pw := t.pw, msub := t.msub } ∧
      t.phase = .idle ∧
      t.err = if (Frame.ofShift t.shift).valid then .none else .checksumMismatch)

/-- One measurement that starts with a high still present, then a low, then a pulse of `high` ticks, and whose falling
edge comes by the ceiling, stores the bit `high > 30` at SHIFT[39 - BITIDX] and starts the next measurement (R88 to
R93, R95, R96). -/
def Obligations.MeasurementReadsPulseWidth : Prop :=
  ∀ (s : State) (p : Pulse), s.phase = .bits → s.msub = .skip → s.mt = 0 → s.pw = 0 →
    s.pinModeAt s.curPin = .input → s.bitIdx.toNat < 39 → p.fits →
    let t := ticks p.wave s
    t = { s with line := .low, shift := t.shift, bitIdx := s.bitIdx + 1 } ∧
    (∀ k < 40, t.shift.getLsbD k =
      if k = 39 - s.bitIdx.toNat then decide (30 < p.high) else s.shift.getLsbD k)

/-- R96: the end of a measurement stores the bit, counts it, and either starts the next measurement or, at the
fortieth, finishes the frame. -/
def Obligations.EndOfMeasurementStoresBit : Prop :=
  ∀ (b : Bool) (s : State), s.bitIdx.toNat < 40 →
    ∃ sh : BitVec 40,
      (∀ k < 40, sh.getLsbD k = if k = 39 - s.bitIdx.toNat then b else s.shift.getLsbD k) ∧
      endBit b s =
        if s.bitIdx.toNat = 39 then finish { s with shift := sh, bitIdx := 40 }
        else { s with shift := sh, bitIdx := s.bitIdx + 1, mt := 0, pw := 0, msub := .skip }

/-! ## Checksum, unpack and scale -/

/-- R101: a frame whose sum agrees completes the read without error and writes the raw results of its variant
(R103); READ_RAW writes no other result, and the sequencer's other elements and the pins stay. All of it happens in the
tick that ends bit 39, by an edge or by the ceiling. -/
def Obligations.ValidFrameCompletesRead : Prop :=
  ∀ (s : State) (b0 b1 b2 b3 b4 : Byte),
    (b0.toNat + b1.toNat + b2.toNat + b3.toNat) % 256 = b4.toNat →
    ∃ rawT rawH : Half,
      (s.curVar = .fine → rawT = b2 ++ b3 ∧ rawH = b0 ++ b1) ∧
      (s.curVar = .coarse → rawT = 0#8 ++ b2 ∧ rawH = 0#8 ++ b0) ∧
      (s.shift = b0 ++ b1 ++ b2 ++ b3 ++ b4 →
        (s.curOp = .readRaw → finish s = { s with
          rawT := rawT, rawH := rawH, phase := .idle, err := .none, done := true, doneIP := true }) ∧
        (s.curOp = .readScaled → finish s = { s.scaleResults s.curVar rawT rawH with
          rawT := rawT, rawH := rawH, phase := .idle, err := .none, done := true, doneIP := true })) ∧
      (∀ lv : Levels, s.phase = .bits → s.bitIdx = 39 → (tick lv s).bitIdx = 40 →
        (tick lv s).shift = b0 ++ b1 ++ b2 ++ b3 ++ b4 →
        let t := tick lv s
        (s.curOp = .readRaw → t = { s with
          line := s.sample lv s.curPin, mt := s.mt + 1, pw := t.pw, msub := t.msub
          shift := t.shift, bitIdx := 40
          rawT := rawT, rawH := rawH, phase := .idle, err := .none, done := true, doneIP := true }) ∧
        (s.curOp = .readScaled → t = { s.scaleResults s.curVar rawT rawH with
          line := s.sample lv s.curPin, mt := s.mt + 1, pw := t.pw, msub := t.msub
          shift := t.shift, bitIdx := 40
          rawT := rawT, rawH := rawH, phase := .idle, err := .none, done := true, doneIP := true }))

/-- R100: a frame whose sum does not agree fails with CHECKSUM_MISMATCH; no result register changes. -/
def Obligations.InvalidFrameFailsRead : Prop :=
  ∀ (s : State) (b0 b1 b2 b3 b4 : Byte), s.shift = b0 ++ b1 ++ b2 ++ b3 ++ b4 →
    (b0.toNat + b1.toNat + b2.toNat + b3.toNat) % 256 ≠ b4.toNat →
    let t := finish s
    t = { s with
      phase := .idle, err := .checksumMismatch, done := true, doneIP := true
      pinMode := t.pinMode, pinLvl := t.pinLvl } ∧
    (∀ p, t.pinModeAt p = if p = s.curPin then .input else s.pinModeAt p) ∧
    (∀ p, t.pinLvlAt p = if p = s.curPin then .high else s.pinLvlAt p)

/-- R114: the scaled results of a read. Fine: temperature in sign and magnitude and humidity in two's complement, both
in tenths; coarse: the raw values unchanged. The tick that ends a READ_SCALED without error applies them to the raw
results it writes; no tick of a READ_RAW writes a scaled result. -/
def Obligations.ScaleResultsByVariant : Prop :=
  (∀ (s : State) (rawT rawH : Half),
    (let nT : Int := if 0x8000 ≤ rawT.toNat then -((rawT.toNat - 0x8000 : Nat) : Int) else rawT.toNat
     let nH : Int := if 0x8000 ≤ rawH.toNat then (rawH.toNat : Int) - 0x10000 else rawH.toNat
     s.scaleResults .fine rawT rawH = { s with
       sclT := BitVec.ofInt 32 nT, tdiv := true, fltT := f32 nT 10
       sclH := BitVec.ofInt 32 nH, hdiv := true, fltH := f32 nH 10 }) ∧
    s.scaleResults .coarse rawT rawH = { s with
      sclT := BitVec.ofInt 32 rawT.toNat, tdiv := false, fltT := f32 rawT.toNat 1
      sclH := BitVec.ofInt 32 rawH.toNat, hdiv := false, fltH := f32 rawH.toNat 1 }) ∧
  (∀ (s : State) (lv : Levels), s.phase = .bits →
    let t := tick lv s
    (s.curOp = .readScaled → t.phase = .idle → t.err = .none →
      SameScaledT (s.scaleResults s.curVar t.rawT t.rawH) t ∧
      SameScaledH (s.scaleResults s.curVar t.rawT t.rawH) t) ∧
    (s.curOp = .readRaw → SameScaledT s t ∧ SameScaledH s t))

/-- The unit's values of R122's table and of the corner cases of R116 and R117 (also V-U17 and V-U7). -/
def Obligations.UnitGivesTableValues : Prop :=
  unpackSignedTenths 0x8032#16 = (-50, 10) ∧ f32 (-50) 10 = 0xC0A00000#32 ∧
  unpackSignedTenths 0x0032#16 = (50, 10) ∧ f32 50 10 = 0x40A00000#32 ∧
  unpackSignedTenths 0x8000#16 = (0, 10) ∧ f32 0 10 = 0x00000000#32 ∧
  unpackSignedTenths 0xFFFF#16 = (-32767, 10) ∧ f32 (-32767) 10 = 0xC54CCB33#32 ∧
  unpackSignedTenths 0x7FFF#16 = (32767, 10) ∧ f32 32767 10 = 0x454CCB33#32 ∧
  unpackSignedTenths 0x8001#16 = (-1, 10) ∧ f32 (-1) 10 = 0xBDCCCCCD#32 ∧
  scaleHumidityTenths 0x01F4#16 = (500, 10) ∧ f32 500 10 = 0x42480000#32 ∧
  scaleHumidityTenths 0x8000#16 = (-32768, 10) ∧ f32 (-32768) 10 = 0xC54CCCCD#32 ∧
  scaleHumidityTenths 0xFFFF#16 = (-1, 10) ∧
  scaleHumidityTenths 0x0000#16 = (0, 10) ∧
  scaleHumidityTenths 0x03E8#16 = (1000, 10) ∧ f32 1000 10 = 0x42C80000#32 ∧
  coarseUnits 0x0028#16 = (40, 1) ∧ f32 40 1 = 0x42200000#32 ∧
  coarseUnits 0x0016#16 = (22, 1) ∧ f32 22 1 = 0x41B00000#32 ∧
  f32 (-101) 10 = 0xC121999A#32

/-- The scaled results of a fine read are those UNPACK_T and SCALE_H give of its raw results (R118). -/
def Obligations.FineReadAgreesWithConversions : Prop :=
  ∀ (s u v w : State), s.curOp = .readScaled → s.curVar = .fine → (Frame.ofShift s.shift).valid = true →
    u.phase = .idle →
    exec (.unpackT (finish s).rawT) u = .next v → exec (.scaleH (finish s).rawH) u = .next w →
    SameScaledT v (finish s) ∧ SameScaledH w (finish s)

/-- Flipping any one bit of the four data bytes of a valid frame makes it invalid (C6). -/
def Obligations.SingleBitCorruptionIsDetected : Prop :=
  ∀ (sh : BitVec 40) (k : Nat), (Frame.ofShift sh).valid = true → 8 ≤ k → k < 40 →
    (Frame.ofShift (sh ^^^ (1#40 <<< k))).valid = false

/-- R12 over the unit's range: the pattern is the binary32 number nearest to the exact quotient, a tie going to the
even significand, and zero is positive zero. -/
def Obligations.FloatIsNearestTiesToEven : Prop :=
  ∀ (n : Int) (d : Nat), -32768 ≤ n → n ≤ 65535 → d = 1 ∨ d = 10 →
    (n = 0 → f32 n d = 0#32) ∧ floatFinite (f32 n d) ∧
    ∀ w : Word, floatFinite w →
      |floatValue (f32 n d) - (n : ℚ) / d| ≤ |floatValue w - (n : ℚ) / d| ∧
      (|floatValue (f32 n d) - (n : ℚ) / d| = |floatValue w - (n : ℚ) / d| →
        floatValue w ≠ floatValue (f32 n d) → (f32 n d).getLsbD 0 = false)

/-- The unit's float is positive zero for 0 and a normal number with the numerator's sign otherwise: never a NaN, an
infinity, a subnormal or a negative zero (R113). -/
def Obligations.FloatIsZeroOrNormal : Prop :=
  ∀ (n : Int) (d : Nat), -32768 ≤ n → n ≤ 65535 → d = 1 ∨ d = 10 →
    (n = 0 ∧ f32 n d = 0#32) ∨
    (n ≠ 0 ∧ 1 ≤ ((f32 n d).extractLsb' 23 8).toNat ∧ ((f32 n d).extractLsb' 23 8).toNat ≤ 254 ∧
      ((f32 n d).msb = true ↔ n < 0))

/-- With D = 1 the float is exact (R110, R124). -/
def Obligations.WholeUnitsFloatIsExact : Prop :=
  ∀ n : Int, -32768 ≤ n → n ≤ 65535 → floatValue (f32 n 1) = (n : ℚ)

/-! ## Whole-machine rules -/

/-- R137: NO_RESPONSE appears only at a tick in WLOW. When every sample from the start of WLOW on is high it comes
exactly at tick `T_HOLD(var) + T_REL + T_WLOW` of the command, BUSY until then; and where it comes, that is the tick and
every WLOW sample was high. -/
def Obligations.NoResponseComesAtItsTick : Prop :=
  (∀ s t : State, step s = .next t → s.err ≠ .noResponse → t.err = .noResponse →
    s.phase = .wlow ∧ ∃ lv, (nextInput s).1 = .tick lv) ∧
  (∀ (s : State) (lvs : List Levels) (k : Nat), s.Inv → s.phase = .hold → s.ctr = 0 →
    (∀ (j : Nat) (h : j < lvs.length), tHold s.curVar + s.params.tRel ≤ j →
      (lvs[j])[s.curPin.toNat]'s.curPin.isLt = .high) →
    lvs.length = tHold s.curVar + s.params.tRel + s.params.tWlow → k ≤ lvs.length →
    let t := ticks (lvs.take k) s
    if k < lvs.length then t.phase ≠ .idle
    else t.phase = .idle ∧ t.err = .noResponse ∧ t.done = true ∧ t.doneIP = true) ∧
  (∀ (s : State) (lvs : List Levels) (lv : Levels), s.Inv → s.phase = .hold →
    (ticks lvs s).err ≠ .noResponse → (ticks (lvs ++ [lv]) s).err = .noResponse →
    s.ctr.toNat + lvs.length + 1 = tHold s.curVar + s.params.tRel + s.params.tWlow ∧
    ∀ (j : Nat) (h : j < (lvs ++ [lv]).length), tHold s.curVar + s.params.tRel ≤ s.ctr.toNat + j →
      ((lvs ++ [lv])[j])[s.curPin.toNat]'s.curPin.isLt = .high)

/-- R138: MALFORMED_HANDSHAKE appears only at a tick in WHIGH, and exactly after T_WHIGH consecutive low samples there:
where all samples are low it comes then, and where it comes they were. -/
def Obligations.MalformedHandshakeComesAtItsTick : Prop :=
  (∀ s t : State, step s = .next t → s.err ≠ .malformedHandshake → t.err = .malformedHandshake →
    s.phase = .whigh ∧ ∃ lv, (nextInput s).1 = .tick lv) ∧
  (∀ (s : State) (lvs : List Levels) (k : Nat), s.Inv → s.phase = .whigh → s.ctr = 0 →
    (∀ (j : Nat) (h : j < lvs.length), (lvs[j])[s.curPin.toNat]'s.curPin.isLt = .low) →
    lvs.length = s.params.tWhigh → k ≤ lvs.length →
    let t := ticks (lvs.take k) s
    if k < lvs.length then t.phase = .whigh
    else t.phase = .idle ∧ t.err = .malformedHandshake ∧ t.done = true ∧ t.doneIP = true) ∧
  (∀ (s : State) (lvs : List Levels) (lv : Levels), s.Inv → s.phase = .whigh →
    (ticks lvs s).err ≠ .malformedHandshake → (ticks (lvs ++ [lv]) s).err = .malformedHandshake →
    s.ctr.toNat + lvs.length + 1 = s.params.tWhigh ∧
    ∀ l ∈ lvs ++ [lv], l[s.curPin.toNat]'s.curPin.isLt = .low)

/-- R139: CHECKSUM_MISMATCH appears only at the tick that ends bit 39, and no result register holds any of the
discarded frame. -/
def Obligations.ChecksumMismatchComesAtLastBit : Prop :=
  ∀ s t : State, s.Inv → step s = .next t → s.err ≠ .checksumMismatch → t.err = .checksumMismatch →
    s.phase = .bits ∧ s.bitIdx = 39 ∧ t.bitIdx = 40 ∧ t.phase = .idle ∧
    (∃ lv, (nextInput s).1 = .tick lv) ∧ SameResults s t

/-- R143: a step that leaves an error other than one already there writes no result register; a result register
changes only where a command completes without error, or at reset. -/
def Obligations.ResultsChangeOnlyAtSuccess : Prop :=
  ∀ s t : State, step s = .next t → ¬ SameResults s t →
    (t.inReset = true ∧ t = t.assertReset) ∨
    (t.phase = .idle ∧ t.err = .none ∧ t.done = true ∧ t.doneIP = true ∧ s.inReset = false)

/-- The sequencer's fixed order (R135): a step keeps PHASE, follows HOLD, REL, WLOW, WHIGH, BITS, IDLE, leaves WLOW or
WHIGH early to IDLE, or is reset. -/
def Obligations.PhasesFollowTheirOrder : Prop :=
  ∀ s t : State, step s = .next t → t.phase ≠ s.phase →
    (s.phase = .idle ∧ t.phase = .hold) ∨ (s.phase = .hold ∧ t.phase = .rel) ∨
    (s.phase = .rel ∧ t.phase = .wlow) ∨ (s.phase = .wlow ∧ t.phase = .whigh) ∨
    (s.phase = .whigh ∧ t.phase = .bits) ∨
    ((s.phase = .wlow ∨ s.phase = .whigh ∨ s.phase = .bits) ∧ t.phase = .idle ∧ t.done = true) ∨
    (t.phase = .idle ∧ (nextInput s).1 = .resetLine true)

/-- R21: a read latches CUR_PIN, CUR_VAR and CUR_OP when it is accepted, and they change at no other step but reset. -/
def Obligations.LatchedOperandsHold : Prop :=
  (∀ s t : State, step s = .next t → ¬ SameLatched s t →
    (s.phase = .idle ∧ t.phase = .hold) ∨ (nextInput s).1 = .resetLine true) ∧
  (∀ (s t : State) (pin : PinNo) (var : Variant), s.phase = .idle → t.phase = .hold →
    (exec (.readRaw pin var) s = .next t → t.curPin = pin ∧ t.curVar = var ∧ t.curOp = .readRaw) ∧
    (exec (.readScaled pin var) s = .next t →
      t.curPin = pin ∧ t.curVar = var ∧ t.curOp = .readScaled))

/-- R29: DONE_IP is set at every completion, of a running read and of a command that completes at once, and is cleared
only by a host write of 1 to bit 0 of INT_PEND or by reset; DONE_IE changes only by a host write to INT_EN or by
reset. After every step irq is DONE_IE and DONE_IP (R30, R144). -/
def Obligations.InterruptBitsChangeOnlyByTheirWrites : Prop :=
  ∀ s t : State, step s = .next t →
    (t.irq = true ↔ t.doneIE = true ∧ t.doneIP = true) ∧
    (s.phase ≠ .idle → t.phase = .idle → (nextInput s).1 = .resetLine true ∨ t.doneIP = true) ∧
    (∀ v : Word, (nextInput s).1 = .host (.write s.params.regBase v.lanes) → s.inReset = false →
      s.phase = .idle → t.phase = .idle → t.done = true ∧ t.doneIP = true) ∧
    (s.doneIP = true → t.doneIP = false →
      (nextInput s).1 = .resetLine true ∨
      ∃ v : Word, (nextInput s).1 = .host (.write (s.params.regBase + 0x0C) v.lanes) ∧
        v.getLsbD 0 = true) ∧
    (t.doneIE ≠ s.doneIE →
      (nextInput s).1 = .resetLine true ∨
      ∃ v : Word, (nextInput s).1 = .host (.write (s.params.regBase + 0x08) v.lanes))

/-- A step never drives or releases a line other than CUR_PIN after it, reset apart; and in a legal state a line is
driven only Low, and only in HOLD (R25, R104). -/
def Obligations.OnlyTheReadLineIsDriven : Prop :=
  (∀ (s t : State) (p : PinNo), step s = .next t → (nextInput s).1 ≠ .resetLine true →
    p ≠ t.curPin → t.pinModeAt p = s.pinModeAt p ∧ t.pinLvlAt p = s.pinLvlAt p) ∧
  (∀ (s : State) (p : PinNo), s.Inv →
    (s.pinOe p = true ↔ s.phase = .hold ∧ p = s.curPin) ∧ (s.pinOe p = true → s.pinOut p = false) ∧
    (s.pinPu p = !s.pinOe p))

/-- A whole frame: from the start of BITS, forty pulses that fit give a frame whose bits, first received most
significant, are `high > 30`; the read then completes, without error exactly when the sum agrees, and then with the
results of its variant and operation, and else with every result register as it was (R72, R96 to R103, R114). -/
def Obligations.FortyPulsesAssembleTheFrame : Prop :=
  ∀ (s : State) (ps : List Pulse), s.Inv → s.phase = .bits → s.msub = .skip → s.mt = 0 → s.bitIdx = 0 →
    ps.length = 40 → (∀ p ∈ ps, p.fits) →
    let t := ticks (ps.flatMap Pulse.wave) s
    (∀ (i : Nat) (h : i < ps.length), t.shift.getLsbD (39 - i) = decide (30 < (ps[i]).high)) ∧
    t.bitIdx = 40 ∧ t.phase = .idle ∧ t.done = true ∧ t.doneIP = true ∧
    t.err = (if (Frame.ofShift t.shift).valid then .none else .checksumMismatch) ∧
    ((Frame.ofShift t.shift).valid = true →
      (t.rawT, t.rawH) = (Frame.ofShift t.shift).unpackRaw s.curVar ∧
      (s.curOp = .readRaw → SameScaledT s t ∧ SameScaledH s t) ∧
      (s.curOp = .readScaled →
        SameScaledT (s.scaleResults s.curVar t.rawT t.rawH) t ∧
        SameScaledH (s.scaleResults s.curVar t.rawT t.rawH) t)) ∧
    ((Frame.ofShift t.shift).valid = false → SameResults s t)

/-- Every read completes, whatever the samples: within `T_HOLD + T_REL + T_WLOW + T_WHIGH + 40 * 1000` ticks it is IDLE
with DONE set, and it is not IDLE without error before tick `T_HOLD + T_REL + 2 + 3 * 40` (R106). -/
def Obligations.EveryReadCompletesInBound : Prop :=
  ∀ (s : State) (lvs : List Levels), s.Inv → s.phase = .hold → s.ctr = 0 →
    (tHold s.curVar + s.params.tRel + s.params.tWlow + s.params.tWhigh + 40 * 1000 ≤ lvs.length →
      (ticks lvs s).phase = .idle ∧ (ticks lvs s).done = true ∧ (ticks lvs s).doneIP = true) ∧
    ((ticks lvs s).phase = .idle → (ticks lvs s).err = .none →
      tHold s.curVar + s.params.tRel + 2 + 3 * 40 ≤ lvs.length)
end

