-- ==== Sys2Proof/Laws/State.lean ====
section
/-! SUPPORT. What each update of the state leaves in each field: one lemma a field and update, true by
definition, so that no later proof unfolds a record update. -/

namespace Sys2Proof.Machine

variable (s : State)

/-! ### setPin: The GPIO driver writes one line's pad (R25). -/

section setPin

variable (p : PinNo) (mode : PinMode) (lvl : Level)

@[simp] theorem setPin_phase : (State.setPin p mode lvl s).phase = s.phase := rfl
@[simp] theorem setPin_ctr : (State.setPin p mode lvl s).ctr = s.ctr := rfl
@[simp] theorem setPin_mt : (State.setPin p mode lvl s).mt = s.mt := rfl
@[simp] theorem setPin_pw : (State.setPin p mode lvl s).pw = s.pw := rfl
@[simp] theorem setPin_msub : (State.setPin p mode lvl s).msub = s.msub := rfl
@[simp] theorem setPin_bitIdx : (State.setPin p mode lvl s).bitIdx = s.bitIdx := rfl
@[simp] theorem setPin_shift : (State.setPin p mode lvl s).shift = s.shift := rfl
@[simp] theorem setPin_curPin : (State.setPin p mode lvl s).curPin = s.curPin := rfl
@[simp] theorem setPin_curVar : (State.setPin p mode lvl s).curVar = s.curVar := rfl
@[simp] theorem setPin_curOp : (State.setPin p mode lvl s).curOp = s.curOp := rfl
@[simp] theorem setPin_rawT : (State.setPin p mode lvl s).rawT = s.rawT := rfl
@[simp] theorem setPin_rawH : (State.setPin p mode lvl s).rawH = s.rawH := rfl
@[simp] theorem setPin_sclT : (State.setPin p mode lvl s).sclT = s.sclT := rfl
@[simp] theorem setPin_sclH : (State.setPin p mode lvl s).sclH = s.sclH := rfl
@[simp] theorem setPin_tdiv : (State.setPin p mode lvl s).tdiv = s.tdiv := rfl
@[simp] theorem setPin_hdiv : (State.setPin p mode lvl s).hdiv = s.hdiv := rfl
@[simp] theorem setPin_fltT : (State.setPin p mode lvl s).fltT = s.fltT := rfl
@[simp] theorem setPin_fltH : (State.setPin p mode lvl s).fltH = s.fltH := rfl
@[simp] theorem setPin_pinMode : (State.setPin p mode lvl s).pinMode = s.pinMode.set p.toNat mode p.isLt := rfl
@[simp] theorem setPin_pinLvl : (State.setPin p mode lvl s).pinLvl = s.pinLvl.set p.toNat lvl p.isLt := rfl
@[simp] theorem setPin_line : (State.setPin p mode lvl s).line = s.line := rfl
@[simp] theorem setPin_done : (State.setPin p mode lvl s).done = s.done := rfl
@[simp] theorem setPin_rej : (State.setPin p mode lvl s).rej = s.rej := rfl
@[simp] theorem setPin_err : (State.setPin p mode lvl s).err = s.err := rfl
@[simp] theorem setPin_doneIE : (State.setPin p mode lvl s).doneIE = s.doneIE := rfl
@[simp] theorem setPin_doneIP : (State.setPin p mode lvl s).doneIP = s.doneIP := rfl
@[simp] theorem setPin_inReset : (State.setPin p mode lvl s).inReset = s.inReset := rfl
@[simp] theorem setPin_params : (State.setPin p mode lvl s).params = s.params := rfl
@[simp] theorem setPin_inputs : (State.setPin p mode lvl s).inputs = s.inputs := rfl
@[simp] theorem setPin_draws : (State.setPin p mode lvl s).draws = s.draws := rfl
@[simp] theorem setPin_reply : (State.setPin p mode lvl s).reply = s.reply := rfl

end setPin

/-! ### storeT: The temperature half of the scaled results (R109, R110). -/

section storeT

variable (v : Scaled)

@[simp] theorem storeT_phase : (State.storeT v s).phase = s.phase := rfl
@[simp] theorem storeT_ctr : (State.storeT v s).ctr = s.ctr := rfl
@[simp] theorem storeT_mt : (State.storeT v s).mt = s.mt := rfl
@[simp] theorem storeT_pw : (State.storeT v s).pw = s.pw := rfl
@[simp] theorem storeT_msub : (State.storeT v s).msub = s.msub := rfl
@[simp] theorem storeT_bitIdx : (State.storeT v s).bitIdx = s.bitIdx := rfl
@[simp] theorem storeT_shift : (State.storeT v s).shift = s.shift := rfl
@[simp] theorem storeT_curPin : (State.storeT v s).curPin = s.curPin := rfl
@[simp] theorem storeT_curVar : (State.storeT v s).curVar = s.curVar := rfl
@[simp] theorem storeT_curOp : (State.storeT v s).curOp = s.curOp := rfl
@[simp] theorem storeT_rawT : (State.storeT v s).rawT = s.rawT := rfl
@[simp] theorem storeT_rawH : (State.storeT v s).rawH = s.rawH := rfl
@[simp] theorem storeT_sclT : (State.storeT v s).sclT = BitVec.ofInt 32 v.1 := rfl
@[simp] theorem storeT_sclH : (State.storeT v s).sclH = s.sclH := rfl
@[simp] theorem storeT_tdiv : (State.storeT v s).tdiv = decide (v.2 = 10) := rfl
@[simp] theorem storeT_hdiv : (State.storeT v s).hdiv = s.hdiv := rfl
@[simp] theorem storeT_fltT : (State.storeT v s).fltT = f32 v.1 v.2 := rfl
@[simp] theorem storeT_fltH : (State.storeT v s).fltH = s.fltH := rfl
@[simp] theorem storeT_pinMode : (State.storeT v s).pinMode = s.pinMode := rfl
@[simp] theorem storeT_pinLvl : (State.storeT v s).pinLvl = s.pinLvl := rfl
@[simp] theorem storeT_line : (State.storeT v s).line = s.line := rfl
@[simp] theorem storeT_done : (State.storeT v s).done = s.done := rfl
@[simp] theorem storeT_rej : (State.storeT v s).rej = s.rej := rfl
@[simp] theorem storeT_err : (State.storeT v s).err = s.err := rfl
@[simp] theorem storeT_doneIE : (State.storeT v s).doneIE = s.doneIE := rfl
@[simp] theorem storeT_doneIP : (State.storeT v s).doneIP = s.doneIP := rfl
@[simp] theorem storeT_inReset : (State.storeT v s).inReset = s.inReset := rfl
@[simp] theorem storeT_params : (State.storeT v s).params = s.params := rfl
@[simp] theorem storeT_inputs : (State.storeT v s).inputs = s.inputs := rfl
@[simp] theorem storeT_draws : (State.storeT v s).draws = s.draws := rfl
@[simp] theorem storeT_reply : (State.storeT v s).reply = s.reply := rfl

end storeT

/-! ### storeH: The humidity half of the scaled results (R109, R110). -/

section storeH

variable (v : Scaled)

@[simp] theorem storeH_phase : (State.storeH v s).phase = s.phase := rfl
@[simp] theorem storeH_ctr : (State.storeH v s).ctr = s.ctr := rfl
@[simp] theorem storeH_mt : (State.storeH v s).mt = s.mt := rfl
@[simp] theorem storeH_pw : (State.storeH v s).pw = s.pw := rfl
@[simp] theorem storeH_msub : (State.storeH v s).msub = s.msub := rfl
@[simp] theorem storeH_bitIdx : (State.storeH v s).bitIdx = s.bitIdx := rfl
@[simp] theorem storeH_shift : (State.storeH v s).shift = s.shift := rfl
@[simp] theorem storeH_curPin : (State.storeH v s).curPin = s.curPin := rfl
@[simp] theorem storeH_curVar : (State.storeH v s).curVar = s.curVar := rfl
@[simp] theorem storeH_curOp : (State.storeH v s).curOp = s.curOp := rfl
@[simp] theorem storeH_rawT : (State.storeH v s).rawT = s.rawT := rfl
@[simp] theorem storeH_rawH : (State.storeH v s).rawH = s.rawH := rfl
@[simp] theorem storeH_sclT : (State.storeH v s).sclT = s.sclT := rfl
@[simp] theorem storeH_sclH : (State.storeH v s).sclH = BitVec.ofInt 32 v.1 := rfl
@[simp] theorem storeH_tdiv : (State.storeH v s).tdiv = s.tdiv := rfl
@[simp] theorem storeH_hdiv : (State.storeH v s).hdiv = decide (v.2 = 10) := rfl
@[simp] theorem storeH_fltT : (State.storeH v s).fltT = s.fltT := rfl
@[simp] theorem storeH_fltH : (State.storeH v s).fltH = f32 v.1 v.2 := rfl
@[simp] theorem storeH_pinMode : (State.storeH v s).pinMode = s.pinMode := rfl
@[simp] theorem storeH_pinLvl : (State.storeH v s).pinLvl = s.pinLvl := rfl
@[simp] theorem storeH_line : (State.storeH v s).line = s.line := rfl
@[simp] theorem storeH_done : (State.storeH v s).done = s.done := rfl
@[simp] theorem storeH_rej : (State.storeH v s).rej = s.rej := rfl
@[simp] theorem storeH_err : (State.storeH v s).err = s.err := rfl
@[simp] theorem storeH_doneIE : (State.storeH v s).doneIE = s.doneIE := rfl
@[simp] theorem storeH_doneIP : (State.storeH v s).doneIP = s.doneIP := rfl
@[simp] theorem storeH_inReset : (State.storeH v s).inReset = s.inReset := rfl
@[simp] theorem storeH_params : (State.storeH v s).params = s.params := rfl
@[simp] theorem storeH_inputs : (State.storeH v s).inputs = s.inputs := rfl
@[simp] theorem storeH_draws : (State.storeH v s).draws = s.draws := rfl
@[simp] theorem storeH_reply : (State.storeH v s).reply = s.reply := rfl

end storeH

/-! ### clearStatus: Acceptance (R127). -/

section clearStatus

@[simp] theorem clearStatus_phase : (State.clearStatus s).phase = s.phase := rfl
@[simp] theorem clearStatus_ctr : (State.clearStatus s).ctr = s.ctr := rfl
@[simp] theorem clearStatus_mt : (State.clearStatus s).mt = s.mt := rfl
@[simp] theorem clearStatus_pw : (State.clearStatus s).pw = s.pw := rfl
@[simp] theorem clearStatus_msub : (State.clearStatus s).msub = s.msub := rfl
@[simp] theorem clearStatus_bitIdx : (State.clearStatus s).bitIdx = s.bitIdx := rfl
@[simp] theorem clearStatus_shift : (State.clearStatus s).shift = s.shift := rfl
@[simp] theorem clearStatus_curPin : (State.clearStatus s).curPin = s.curPin := rfl
@[simp] theorem clearStatus_curVar : (State.clearStatus s).curVar = s.curVar := rfl
@[simp] theorem clearStatus_curOp : (State.clearStatus s).curOp = s.curOp := rfl
@[simp] theorem clearStatus_rawT : (State.clearStatus s).rawT = s.rawT := rfl
@[simp] theorem clearStatus_rawH : (State.clearStatus s).rawH = s.rawH := rfl
@[simp] theorem clearStatus_sclT : (State.clearStatus s).sclT = s.sclT := rfl
@[simp] theorem clearStatus_sclH : (State.clearStatus s).sclH = s.sclH := rfl
@[simp] theorem clearStatus_tdiv : (State.clearStatus s).tdiv = s.tdiv := rfl
@[simp] theorem clearStatus_hdiv : (State.clearStatus s).hdiv = s.hdiv := rfl
@[simp] theorem clearStatus_fltT : (State.clearStatus s).fltT = s.fltT := rfl
@[simp] theorem clearStatus_fltH : (State.clearStatus s).fltH = s.fltH := rfl
@[simp] theorem clearStatus_pinMode : (State.clearStatus s).pinMode = s.pinMode := rfl
@[simp] theorem clearStatus_pinLvl : (State.clearStatus s).pinLvl = s.pinLvl := rfl
@[simp] theorem clearStatus_line : (State.clearStatus s).line = s.line := rfl
@[simp] theorem clearStatus_done : (State.clearStatus s).done = false := rfl
@[simp] theorem clearStatus_rej : (State.clearStatus s).rej = false := rfl
@[simp] theorem clearStatus_err : (State.clearStatus s).err = .none := rfl
@[simp] theorem clearStatus_doneIE : (State.clearStatus s).doneIE = s.doneIE := rfl
@[simp] theorem clearStatus_doneIP : (State.clearStatus s).doneIP = s.doneIP := rfl
@[simp] theorem clearStatus_inReset : (State.clearStatus s).inReset = s.inReset := rfl
@[simp] theorem clearStatus_params : (State.clearStatus s).params = s.params := rfl
@[simp] theorem clearStatus_inputs : (State.clearStatus s).inputs = s.inputs := rfl
@[simp] theorem clearStatus_draws : (State.clearStatus s).draws = s.draws := rfl
@[simp] theorem clearStatus_reply : (State.clearStatus s).reply = s.reply := rfl

end clearStatus

/-! ### signalDone: Completion flags (R40). -/

section signalDone

variable (e : ErrKind)

@[simp] theorem signalDone_phase : (State.signalDone e s).phase = s.phase := rfl
@[simp] theorem signalDone_ctr : (State.signalDone e s).ctr = s.ctr := rfl
@[simp] theorem signalDone_mt : (State.signalDone e s).mt = s.mt := rfl
@[simp] theorem signalDone_pw : (State.signalDone e s).pw = s.pw := rfl
@[simp] theorem signalDone_msub : (State.signalDone e s).msub = s.msub := rfl
@[simp] theorem signalDone_bitIdx : (State.signalDone e s).bitIdx = s.bitIdx := rfl
@[simp] theorem signalDone_shift : (State.signalDone e s).shift = s.shift := rfl
@[simp] theorem signalDone_curPin : (State.signalDone e s).curPin = s.curPin := rfl
@[simp] theorem signalDone_curVar : (State.signalDone e s).curVar = s.curVar := rfl
@[simp] theorem signalDone_curOp : (State.signalDone e s).curOp = s.curOp := rfl
@[simp] theorem signalDone_rawT : (State.signalDone e s).rawT = s.rawT := rfl
@[simp] theorem signalDone_rawH : (State.signalDone e s).rawH = s.rawH := rfl
@[simp] theorem signalDone_sclT : (State.signalDone e s).sclT = s.sclT := rfl
@[simp] theorem signalDone_sclH : (State.signalDone e s).sclH = s.sclH := rfl
@[simp] theorem signalDone_tdiv : (State.signalDone e s).tdiv = s.tdiv := rfl
@[simp] theorem signalDone_hdiv : (State.signalDone e s).hdiv = s.hdiv := rfl
@[simp] theorem signalDone_fltT : (State.signalDone e s).fltT = s.fltT := rfl
@[simp] theorem signalDone_fltH : (State.signalDone e s).fltH = s.fltH := rfl
@[simp] theorem signalDone_pinMode : (State.signalDone e s).pinMode = s.pinMode := rfl
@[simp] theorem signalDone_pinLvl : (State.signalDone e s).pinLvl = s.pinLvl := rfl
@[simp] theorem signalDone_line : (State.signalDone e s).line = s.line := rfl
@[simp] theorem signalDone_done : (State.signalDone e s).done = true := rfl
@[simp] theorem signalDone_rej : (State.signalDone e s).rej = s.rej := rfl
@[simp] theorem signalDone_err : (State.signalDone e s).err = e := rfl
@[simp] theorem signalDone_doneIE : (State.signalDone e s).doneIE = s.doneIE := rfl
@[simp] theorem signalDone_doneIP : (State.signalDone e s).doneIP = true := rfl
@[simp] theorem signalDone_inReset : (State.signalDone e s).inReset = s.inReset := rfl
@[simp] theorem signalDone_params : (State.signalDone e s).params = s.params := rfl
@[simp] theorem signalDone_inputs : (State.signalDone e s).inputs = s.inputs := rfl
@[simp] theorem signalDone_draws : (State.signalDone e s).draws = s.draws := rfl
@[simp] theorem signalDone_reply : (State.signalDone e s).reply = s.reply := rfl

end signalDone

/-! ### rejectWrite: A CMD write while BUSY (R128). -/

section rejectWrite

@[simp] theorem rejectWrite_phase : (State.rejectWrite s).phase = s.phase := rfl
@[simp] theorem rejectWrite_ctr : (State.rejectWrite s).ctr = s.ctr := rfl
@[simp] theorem rejectWrite_mt : (State.rejectWrite s).mt = s.mt := rfl
@[simp] theorem rejectWrite_pw : (State.rejectWrite s).pw = s.pw := rfl
@[simp] theorem rejectWrite_msub : (State.rejectWrite s).msub = s.msub := rfl
@[simp] theorem rejectWrite_bitIdx : (State.rejectWrite s).bitIdx = s.bitIdx := rfl
@[simp] theorem rejectWrite_shift : (State.rejectWrite s).shift = s.shift := rfl
@[simp] theorem rejectWrite_curPin : (State.rejectWrite s).curPin = s.curPin := rfl
@[simp] theorem rejectWrite_curVar : (State.rejectWrite s).curVar = s.curVar := rfl
@[simp] theorem rejectWrite_curOp : (State.rejectWrite s).curOp = s.curOp := rfl
@[simp] theorem rejectWrite_rawT : (State.rejectWrite s).rawT = s.rawT := rfl
@[simp] theorem rejectWrite_rawH : (State.rejectWrite s).rawH = s.rawH := rfl
@[simp] theorem rejectWrite_sclT : (State.rejectWrite s).sclT = s.sclT := rfl
@[simp] theorem rejectWrite_sclH : (State.rejectWrite s).sclH = s.sclH := rfl
@[simp] theorem rejectWrite_tdiv : (State.rejectWrite s).tdiv = s.tdiv := rfl
@[simp] theorem rejectWrite_hdiv : (State.rejectWrite s).hdiv = s.hdiv := rfl
@[simp] theorem rejectWrite_fltT : (State.rejectWrite s).fltT = s.fltT := rfl
@[simp] theorem rejectWrite_fltH : (State.rejectWrite s).fltH = s.fltH := rfl
@[simp] theorem rejectWrite_pinMode : (State.rejectWrite s).pinMode = s.pinMode := rfl
@[simp] theorem rejectWrite_pinLvl : (State.rejectWrite s).pinLvl = s.pinLvl := rfl
@[simp] theorem rejectWrite_line : (State.rejectWrite s).line = s.line := rfl
@[simp] theorem rejectWrite_done : (State.rejectWrite s).done = s.done := rfl
@[simp] theorem rejectWrite_rej : (State.rejectWrite s).rej = true := rfl
@[simp] theorem rejectWrite_err : (State.rejectWrite s).err = s.err := rfl
@[simp] theorem rejectWrite_doneIE : (State.rejectWrite s).doneIE = s.doneIE := rfl
@[simp] theorem rejectWrite_doneIP : (State.rejectWrite s).doneIP = s.doneIP := rfl
@[simp] theorem rejectWrite_inReset : (State.rejectWrite s).inReset = s.inReset := rfl
@[simp] theorem rejectWrite_params : (State.rejectWrite s).params = s.params := rfl
@[simp] theorem rejectWrite_inputs : (State.rejectWrite s).inputs = s.inputs := rfl
@[simp] theorem rejectWrite_draws : (State.rejectWrite s).draws = s.draws := rfl
@[simp] theorem rejectWrite_reply : (State.rejectWrite s).reply = s.reply := rfl

end rejectWrite

/-! ### writeIntEn: WR INT_EN (R34). -/

section writeIntEn

variable (v : Word)

@[simp] theorem writeIntEn_phase : (State.writeIntEn v s).phase = s.phase := rfl
@[simp] theorem writeIntEn_ctr : (State.writeIntEn v s).ctr = s.ctr := rfl
@[simp] theorem writeIntEn_mt : (State.writeIntEn v s).mt = s.mt := rfl
@[simp] theorem writeIntEn_pw : (State.writeIntEn v s).pw = s.pw := rfl
@[simp] theorem writeIntEn_msub : (State.writeIntEn v s).msub = s.msub := rfl
@[simp] theorem writeIntEn_bitIdx : (State.writeIntEn v s).bitIdx = s.bitIdx := rfl
@[simp] theorem writeIntEn_shift : (State.writeIntEn v s).shift = s.shift := rfl
@[simp] theorem writeIntEn_curPin : (State.writeIntEn v s).curPin = s.curPin := rfl
@[simp] theorem writeIntEn_curVar : (State.writeIntEn v s).curVar = s.curVar := rfl
@[simp] theorem writeIntEn_curOp : (State.writeIntEn v s).curOp = s.curOp := rfl
@[simp] theorem writeIntEn_rawT : (State.writeIntEn v s).rawT = s.rawT := rfl
@[simp] theorem writeIntEn_rawH : (State.writeIntEn v s).rawH = s.rawH := rfl
@[simp] theorem writeIntEn_sclT : (State.writeIntEn v s).sclT = s.sclT := rfl
@[simp] theorem writeIntEn_sclH : (State.writeIntEn v s).sclH = s.sclH := rfl
@[simp] theorem writeIntEn_tdiv : (State.writeIntEn v s).tdiv = s.tdiv := rfl
@[simp] theorem writeIntEn_hdiv : (State.writeIntEn v s).hdiv = s.hdiv := rfl
@[simp] theorem writeIntEn_fltT : (State.writeIntEn v s).fltT = s.fltT := rfl
@[simp] theorem writeIntEn_fltH : (State.writeIntEn v s).fltH = s.fltH := rfl
@[simp] theorem writeIntEn_pinMode : (State.writeIntEn v s).pinMode = s.pinMode := rfl
@[simp] theorem writeIntEn_pinLvl : (State.writeIntEn v s).pinLvl = s.pinLvl := rfl
@[simp] theorem writeIntEn_line : (State.writeIntEn v s).line = s.line := rfl
@[simp] theorem writeIntEn_done : (State.writeIntEn v s).done = s.done := rfl
@[simp] theorem writeIntEn_rej : (State.writeIntEn v s).rej = s.rej := rfl
@[simp] theorem writeIntEn_err : (State.writeIntEn v s).err = s.err := rfl
@[simp] theorem writeIntEn_doneIE : (State.writeIntEn v s).doneIE = v.getLsbD 0 := rfl
@[simp] theorem writeIntEn_doneIP : (State.writeIntEn v s).doneIP = s.doneIP := rfl
@[simp] theorem writeIntEn_inReset : (State.writeIntEn v s).inReset = s.inReset := rfl
@[simp] theorem writeIntEn_params : (State.writeIntEn v s).params = s.params := rfl
@[simp] theorem writeIntEn_inputs : (State.writeIntEn v s).inputs = s.inputs := rfl
@[simp] theorem writeIntEn_draws : (State.writeIntEn v s).draws = s.draws := rfl
@[simp] theorem writeIntEn_reply : (State.writeIntEn v s).reply = s.reply := rfl

end writeIntEn

/-! ### writeIntPend: WR INT_PEND (R35). -/

section writeIntPend

variable (v : Word)

@[simp] theorem writeIntPend_phase : (State.writeIntPend v s).phase = s.phase := rfl
@[simp] theorem writeIntPend_ctr : (State.writeIntPend v s).ctr = s.ctr := rfl
@[simp] theorem writeIntPend_mt : (State.writeIntPend v s).mt = s.mt := rfl
@[simp] theorem writeIntPend_pw : (State.writeIntPend v s).pw = s.pw := rfl
@[simp] theorem writeIntPend_msub : (State.writeIntPend v s).msub = s.msub := rfl
@[simp] theorem writeIntPend_bitIdx : (State.writeIntPend v s).bitIdx = s.bitIdx := rfl
@[simp] theorem writeIntPend_shift : (State.writeIntPend v s).shift = s.shift := rfl
@[simp] theorem writeIntPend_curPin : (State.writeIntPend v s).curPin = s.curPin := rfl
@[simp] theorem writeIntPend_curVar : (State.writeIntPend v s).curVar = s.curVar := rfl
@[simp] theorem writeIntPend_curOp : (State.writeIntPend v s).curOp = s.curOp := rfl
@[simp] theorem writeIntPend_rawT : (State.writeIntPend v s).rawT = s.rawT := rfl
@[simp] theorem writeIntPend_rawH : (State.writeIntPend v s).rawH = s.rawH := rfl
@[simp] theorem writeIntPend_sclT : (State.writeIntPend v s).sclT = s.sclT := rfl
@[simp] theorem writeIntPend_sclH : (State.writeIntPend v s).sclH = s.sclH := rfl
@[simp] theorem writeIntPend_tdiv : (State.writeIntPend v s).tdiv = s.tdiv := rfl
@[simp] theorem writeIntPend_hdiv : (State.writeIntPend v s).hdiv = s.hdiv := rfl
@[simp] theorem writeIntPend_fltT : (State.writeIntPend v s).fltT = s.fltT := rfl
@[simp] theorem writeIntPend_fltH : (State.writeIntPend v s).fltH = s.fltH := rfl
@[simp] theorem writeIntPend_pinMode : (State.writeIntPend v s).pinMode = s.pinMode := rfl
@[simp] theorem writeIntPend_pinLvl : (State.writeIntPend v s).pinLvl = s.pinLvl := rfl
@[simp] theorem writeIntPend_line : (State.writeIntPend v s).line = s.line := rfl
@[simp] theorem writeIntPend_done : (State.writeIntPend v s).done = s.done := rfl
@[simp] theorem writeIntPend_rej : (State.writeIntPend v s).rej = s.rej := rfl
@[simp] theorem writeIntPend_err : (State.writeIntPend v s).err = s.err := rfl
@[simp] theorem writeIntPend_doneIE : (State.writeIntPend v s).doneIE = s.doneIE := rfl
@[simp] theorem writeIntPend_doneIP : (State.writeIntPend v s).doneIP = (s.doneIP && !v.getLsbD 0) := rfl
@[simp] theorem writeIntPend_inReset : (State.writeIntPend v s).inReset = s.inReset := rfl
@[simp] theorem writeIntPend_params : (State.writeIntPend v s).params = s.params := rfl
@[simp] theorem writeIntPend_inputs : (State.writeIntPend v s).inputs = s.inputs := rfl
@[simp] theorem writeIntPend_draws : (State.writeIntPend v s).draws = s.draws := rfl
@[simp] theorem writeIntPend_reply : (State.writeIntPend v s).reply = s.reply := rfl

end writeIntPend

/-! ### complete: The end of a read without error (R101). -/

section complete

@[simp] theorem complete_phase : (State.complete s).phase = .idle := rfl
@[simp] theorem complete_ctr : (State.complete s).ctr = s.ctr := rfl
@[simp] theorem complete_mt : (State.complete s).mt = s.mt := rfl
@[simp] theorem complete_pw : (State.complete s).pw = s.pw := rfl
@[simp] theorem complete_msub : (State.complete s).msub = s.msub := rfl
@[simp] theorem complete_bitIdx : (State.complete s).bitIdx = s.bitIdx := rfl
@[simp] theorem complete_shift : (State.complete s).shift = s.shift := rfl
@[simp] theorem complete_curPin : (State.complete s).curPin = s.curPin := rfl
@[simp] theorem complete_curVar : (State.complete s).curVar = s.curVar := rfl
@[simp] theorem complete_curOp : (State.complete s).curOp = s.curOp := rfl
@[simp] theorem complete_rawT : (State.complete s).rawT = s.rawT := rfl
@[simp] theorem complete_rawH : (State.complete s).rawH = s.rawH := rfl
@[simp] theorem complete_sclT : (State.complete s).sclT = s.sclT := rfl
@[simp] theorem complete_sclH : (State.complete s).sclH = s.sclH := rfl
@[simp] theorem complete_tdiv : (State.complete s).tdiv = s.tdiv := rfl
@[simp] theorem complete_hdiv : (State.complete s).hdiv = s.hdiv := rfl
@[simp] theorem complete_fltT : (State.complete s).fltT = s.fltT := rfl
@[simp] theorem complete_fltH : (State.complete s).fltH = s.fltH := rfl
@[simp] theorem complete_pinMode : (State.complete s).pinMode = s.pinMode := rfl
@[simp] theorem complete_pinLvl : (State.complete s).pinLvl = s.pinLvl := rfl
@[simp] theorem complete_line : (State.complete s).line = s.line := rfl
@[simp] theorem complete_done : (State.complete s).done = true := rfl
@[simp] theorem complete_rej : (State.complete s).rej = s.rej := rfl
@[simp] theorem complete_err : (State.complete s).err = .none := rfl
@[simp] theorem complete_doneIE : (State.complete s).doneIE = s.doneIE := rfl
@[simp] theorem complete_doneIP : (State.complete s).doneIP = true := rfl
@[simp] theorem complete_inReset : (State.complete s).inReset = s.inReset := rfl
@[simp] theorem complete_params : (State.complete s).params = s.params := rfl
@[simp] theorem complete_inputs : (State.complete s).inputs = s.inputs := rfl
@[simp] theorem complete_draws : (State.complete s).draws = s.draws := rfl
@[simp] theorem complete_reply : (State.complete s).reply = s.reply := rfl

end complete

/-! ### fail: The early exit with an error (R102). -/

section fail

variable (e : ErrKind)

@[simp] theorem fail_phase : (State.fail e s).phase = .idle := rfl
@[simp] theorem fail_ctr : (State.fail e s).ctr = s.ctr := rfl
@[simp] theorem fail_mt : (State.fail e s).mt = s.mt := rfl
@[simp] theorem fail_pw : (State.fail e s).pw = s.pw := rfl
@[simp] theorem fail_msub : (State.fail e s).msub = s.msub := rfl
@[simp] theorem fail_bitIdx : (State.fail e s).bitIdx = s.bitIdx := rfl
@[simp] theorem fail_shift : (State.fail e s).shift = s.shift := rfl
@[simp] theorem fail_curPin : (State.fail e s).curPin = s.curPin := rfl
@[simp] theorem fail_curVar : (State.fail e s).curVar = s.curVar := rfl
@[simp] theorem fail_curOp : (State.fail e s).curOp = s.curOp := rfl
@[simp] theorem fail_rawT : (State.fail e s).rawT = s.rawT := rfl
@[simp] theorem fail_rawH : (State.fail e s).rawH = s.rawH := rfl
@[simp] theorem fail_sclT : (State.fail e s).sclT = s.sclT := rfl
@[simp] theorem fail_sclH : (State.fail e s).sclH = s.sclH := rfl
@[simp] theorem fail_tdiv : (State.fail e s).tdiv = s.tdiv := rfl
@[simp] theorem fail_hdiv : (State.fail e s).hdiv = s.hdiv := rfl
@[simp] theorem fail_fltT : (State.fail e s).fltT = s.fltT := rfl
@[simp] theorem fail_fltH : (State.fail e s).fltH = s.fltH := rfl
@[simp] theorem fail_pinMode : (State.fail e s).pinMode = s.pinMode.set s.curPin.toNat .input s.curPin.isLt := rfl
@[simp] theorem fail_pinLvl : (State.fail e s).pinLvl = s.pinLvl.set s.curPin.toNat .high s.curPin.isLt := rfl
@[simp] theorem fail_line : (State.fail e s).line = s.line := rfl
@[simp] theorem fail_done : (State.fail e s).done = true := rfl
@[simp] theorem fail_rej : (State.fail e s).rej = s.rej := rfl
@[simp] theorem fail_err : (State.fail e s).err = e := rfl
@[simp] theorem fail_doneIE : (State.fail e s).doneIE = s.doneIE := rfl
@[simp] theorem fail_doneIP : (State.fail e s).doneIP = true := rfl
@[simp] theorem fail_inReset : (State.fail e s).inReset = s.inReset := rfl
@[simp] theorem fail_params : (State.fail e s).params = s.params := rfl
@[simp] theorem fail_inputs : (State.fail e s).inputs = s.inputs := rfl
@[simp] theorem fail_draws : (State.fail e s).draws = s.draws := rfl
@[simp] theorem fail_reply : (State.fail e s).reply = s.reply := rfl

end fail

/-! ### startRead: The start of a read (R81). -/

section startRead

variable (op : ReadOp) (pin : PinNo) (var : Variant)

@[simp] theorem startRead_phase : (State.startRead op pin var s).phase = .hold := rfl
@[simp] theorem startRead_ctr : (State.startRead op pin var s).ctr = 0 := rfl
@[simp] theorem startRead_mt : (State.startRead op pin var s).mt = 0 := rfl
@[simp] theorem startRead_pw : (State.startRead op pin var s).pw = 0 := rfl
@[simp] theorem startRead_msub : (State.startRead op pin var s).msub = .skip := rfl
@[simp] theorem startRead_bitIdx : (State.startRead op pin var s).bitIdx = 0 := rfl
@[simp] theorem startRead_shift : (State.startRead op pin var s).shift = 0 := rfl
@[simp] theorem startRead_curPin : (State.startRead op pin var s).curPin = pin := rfl
@[simp] theorem startRead_curVar : (State.startRead op pin var s).curVar = var := rfl
@[simp] theorem startRead_curOp : (State.startRead op pin var s).curOp = op := rfl
@[simp] theorem startRead_rawT : (State.startRead op pin var s).rawT = s.rawT := rfl
@[simp] theorem startRead_rawH : (State.startRead op pin var s).rawH = s.rawH := rfl
@[simp] theorem startRead_sclT : (State.startRead op pin var s).sclT = s.sclT := rfl
@[simp] theorem startRead_sclH : (State.startRead op pin var s).sclH = s.sclH := rfl
@[simp] theorem startRead_tdiv : (State.startRead op pin var s).tdiv = s.tdiv := rfl
@[simp] theorem startRead_hdiv : (State.startRead op pin var s).hdiv = s.hdiv := rfl
@[simp] theorem startRead_fltT : (State.startRead op pin var s).fltT = s.fltT := rfl
@[simp] theorem startRead_fltH : (State.startRead op pin var s).fltH = s.fltH := rfl
@[simp] theorem startRead_pinMode : (State.startRead op pin var s).pinMode = s.pinMode.set pin.toNat .output pin.isLt := rfl
@[simp] theorem startRead_pinLvl : (State.startRead op pin var s).pinLvl = s.pinLvl.set pin.toNat .low pin.isLt := rfl
@[simp] theorem startRead_line : (State.startRead op pin var s).line = s.line := rfl
@[simp] theorem startRead_done : (State.startRead op pin var s).done = s.done := rfl
@[simp] theorem startRead_rej : (State.startRead op pin var s).rej = s.rej := rfl
@[simp] theorem startRead_err : (State.startRead op pin var s).err = s.err := rfl
@[simp] theorem startRead_doneIE : (State.startRead op pin var s).doneIE = s.doneIE := rfl
@[simp] theorem startRead_doneIP : (State.startRead op pin var s).doneIP = s.doneIP := rfl
@[simp] theorem startRead_inReset : (State.startRead op pin var s).inReset = s.inReset := rfl
@[simp] theorem startRead_params : (State.startRead op pin var s).params = s.params := rfl
@[simp] theorem startRead_inputs : (State.startRead op pin var s).inputs = s.inputs := rfl
@[simp] theorem startRead_draws : (State.startRead op pin var s).draws = s.draws := rfl
@[simp] theorem startRead_reply : (State.startRead op pin var s).reply = s.reply := rfl

end startRead

/-! ### startBit: The start of a bit measurement (R88). -/

section startBit

@[simp] theorem startBit_phase : (startBit s).phase = s.phase := rfl
@[simp] theorem startBit_ctr : (startBit s).ctr = s.ctr := rfl
@[simp] theorem startBit_mt : (startBit s).mt = 0 := rfl
@[simp] theorem startBit_pw : (startBit s).pw = 0 := rfl
@[simp] theorem startBit_msub : (startBit s).msub = .skip := rfl
@[simp] theorem startBit_bitIdx : (startBit s).bitIdx = s.bitIdx := rfl
@[simp] theorem startBit_shift : (startBit s).shift = s.shift := rfl
@[simp] theorem startBit_curPin : (startBit s).curPin = s.curPin := rfl
@[simp] theorem startBit_curVar : (startBit s).curVar = s.curVar := rfl
@[simp] theorem startBit_curOp : (startBit s).curOp = s.curOp := rfl
@[simp] theorem startBit_rawT : (startBit s).rawT = s.rawT := rfl
@[simp] theorem startBit_rawH : (startBit s).rawH = s.rawH := rfl
@[simp] theorem startBit_sclT : (startBit s).sclT = s.sclT := rfl
@[simp] theorem startBit_sclH : (startBit s).sclH = s.sclH := rfl
@[simp] theorem startBit_tdiv : (startBit s).tdiv = s.tdiv := rfl
@[simp] theorem startBit_hdiv : (startBit s).hdiv = s.hdiv := rfl
@[simp] theorem startBit_fltT : (startBit s).fltT = s.fltT := rfl
@[simp] theorem startBit_fltH : (startBit s).fltH = s.fltH := rfl
@[simp] theorem startBit_pinMode : (startBit s).pinMode = s.pinMode := rfl
@[simp] theorem startBit_pinLvl : (startBit s).pinLvl = s.pinLvl := rfl
@[simp] theorem startBit_line : (startBit s).line = s.line := rfl
@[simp] theorem startBit_done : (startBit s).done = s.done := rfl
@[simp] theorem startBit_rej : (startBit s).rej = s.rej := rfl
@[simp] theorem startBit_err : (startBit s).err = s.err := rfl
@[simp] theorem startBit_doneIE : (startBit s).doneIE = s.doneIE := rfl
@[simp] theorem startBit_doneIP : (startBit s).doneIP = s.doneIP := rfl
@[simp] theorem startBit_inReset : (startBit s).inReset = s.inReset := rfl
@[simp] theorem startBit_params : (startBit s).params = s.params := rfl
@[simp] theorem startBit_inputs : (startBit s).inputs = s.inputs := rfl
@[simp] theorem startBit_draws : (startBit s).draws = s.draws := rfl
@[simp] theorem startBit_reply : (startBit s).reply = s.reply := rfl

end startBit

end Sys2Proof.Machine
end

