-- ==== Sys2Proof/Laws/Pins.lean ====
section
/-! SUPPORT. Reading a line's pad after one pad was written, and what a sample is (10_state.md R25, R26). -/

namespace Sys2Proof.Machine

theorem pin_ext {p q : PinNo} : p.toNat = q.toNat ↔ p = q :=
  ⟨BitVec.eq_of_toNat_eq, congrArg _⟩

/-- A pad write sets the mode of its own line only. -/
theorem pinModeAt_of_set {s t : State} {p : PinNo} {m : PinMode}
    (h : t.pinMode = s.pinMode.set p.toNat m p.isLt) (q : PinNo) :
    t.pinModeAt q = if q = p then m else s.pinModeAt q := by
  simp only [State.pinModeAt, h, Vector.getElem_set, pin_ext]
  simp only [eq_comm]

/-- A pad write sets the level of its own line only. -/
theorem pinLvlAt_of_set {s t : State} {p : PinNo} {l : Level}
    (h : t.pinLvl = s.pinLvl.set p.toNat l p.isLt) (q : PinNo) :
    t.pinLvlAt q = if q = p then l else s.pinLvlAt q := by
  simp only [State.pinLvlAt, h, Vector.getElem_set, pin_ext]
  simp only [eq_comm]

/-- Pads are read from PINMODE alone. -/
theorem pinModeAt_congr {s t : State} (h : t.pinMode = s.pinMode) (q : PinNo) :
    t.pinModeAt q = s.pinModeAt q := by
  simp only [State.pinModeAt, h]

/-- Pads are read from PINLVL alone. -/
theorem pinLvlAt_congr {s t : State} (h : t.pinLvl = s.pinLvl) (q : PinNo) :
    t.pinLvlAt q = s.pinLvlAt q := by
  simp only [State.pinLvlAt, h]

@[simp] theorem pinModeAt_setPin (s : State) (p q : PinNo) (m : PinMode) (l : Level) :
    (State.setPin p m l s).pinModeAt q = if q = p then m else s.pinModeAt q :=
  pinModeAt_of_set rfl q

@[simp] theorem pinLvlAt_setPin (s : State) (p q : PinNo) (m : PinMode) (l : Level) :
    (State.setPin p m l s).pinLvlAt q = if q = p then l else s.pinLvlAt q :=
  pinLvlAt_of_set rfl q

@[simp] theorem pinModeAt_fail (s : State) (e : ErrKind) (q : PinNo) :
    (State.fail e s).pinModeAt q = if q = s.curPin then .input else s.pinModeAt q :=
  pinModeAt_of_set (fail_pinMode s e) q

@[simp] theorem pinLvlAt_fail (s : State) (e : ErrKind) (q : PinNo) :
    (State.fail e s).pinLvlAt q = if q = s.curPin then .high else s.pinLvlAt q :=
  pinLvlAt_of_set (fail_pinLvl s e) q

@[simp] theorem pinModeAt_startRead (s : State) (op : ReadOp) (p q : PinNo) (v : Variant) :
    (State.startRead op p v s).pinModeAt q = if q = p then .output else s.pinModeAt q :=
  pinModeAt_of_set (startRead_pinMode s op p v) q

@[simp] theorem pinLvlAt_startRead (s : State) (op : ReadOp) (p q : PinNo) (v : Variant) :
    (State.startRead op p v s).pinLvlAt q = if q = p then .low else s.pinLvlAt q :=
  pinLvlAt_of_set (startRead_pinLvl s op p v) q

@[simp] theorem pinModeAt_reset (q : PinNo) : State.reset.pinModeAt q = .input := by
  simp [State.pinModeAt, State.reset]

@[simp] theorem pinLvlAt_reset (q : PinNo) : State.reset.pinLvlAt q = .high := by
  simp [State.pinLvlAt, State.reset]

/-- The driven low dominates the line (R26). -/
theorem sample_of_drivenLow {s : State} {p : PinNo} (lv : Levels)
    (hm : s.pinModeAt p = .output) (hl : s.pinLvlAt p = .low) : s.sample lv p = .low := by
  simp [State.sample, State.drivenLow, hm, hl]

/-- A line in input mode has the level the environment gives it (R26). -/
theorem sample_of_input {s : State} {p : PinNo} (lv : Levels) (hm : s.pinModeAt p = .input) :
    s.sample lv p = lv[p.toNat]'p.isLt := by
  simp [State.sample, State.drivenLow, hm]

/-- A sample depends on the pads alone. -/
theorem sample_congr {s t : State} (hm : t.pinMode = s.pinMode) (hl : t.pinLvl = s.pinLvl)
    (lv : Levels) (p : PinNo) : t.sample lv p = s.sample lv p := by
  simp [State.sample, State.drivenLow, pinModeAt_congr hm, pinLvlAt_congr hl]

end Sys2Proof.Machine
end

