-- ==== Sys2Proof/Laws/Commands.lean ====
section
/-! SUPPORT. Everything presenting a command to the block can do (43_control.md R127 to R130). -/

namespace Sys2Proof.Machine

theorem busy_iff {s : State} : s.busy = true ↔ s.phase ≠ .idle := by simp [State.busy]

theorem not_busy_iff {s : State} : s.busy = false ↔ s.phase = .idle := by simp [State.busy]

theorem present_of_busy {f : State → State} {s : State} (h : s.phase ≠ .idle) :
    present f s = .next s.rejectWrite := by
  simp [present, busy_iff.2 h]

theorem present_of_idle {f : State → State} {s : State} (h : s.phase = .idle) :
    present f s = .next (f s.clearStatus) := by
  simp [present, not_busy_iff.2 h]

/-- The effect of each command once it is accepted (R127). -/
def acceptedEffect : Instr → State → State
  | .nop => State.signalDone .none
  | .readRaw pin var => State.requestRead .readRaw pin var
  | .readScaled pin var => State.requestRead .readScaled pin var
  | .unpackT imm => fun t => (t.storeT (unpackSignedTenths imm)).signalDone .none
  | .scaleH imm => fun t => (t.storeH (scaleHumidityTenths imm)).signalDone .none

/-- Every command is presented the same way. -/
theorem exec_eq_present (i : Instr) (s : State) : exec i s = present (acceptedEffect i) s := by
  cases i <;> rfl

/-- A read that names no line ends as an illegal word; another starts. -/
theorem requestRead_cases (op : ReadOp) (pin : PinNo) (var : Variant) (s : State) :
    (pin.toNat < s.params.nPins ∧ s.requestRead op pin var = s.startRead op pin var) ∨
    (s.params.nPins ≤ pin.toNat ∧ s.requestRead op pin var = s.illegal) := by
  unfold State.requestRead pinExists
  by_cases h : pin.toNat < s.params.nPins
  · exact .inl ⟨h, by simp [h]⟩
  · exact .inr ⟨Nat.le_of_not_lt h, by simp [h]⟩

/-- What an accepted command is: one that only completes, a conversion, or a read that starts. -/
theorem acceptedEffect_cases (i : Instr) (s : State) :
    (∃ e, acceptedEffect i s = s.signalDone e) ∨
    (∃ imm, i = .unpackT imm ∧
      acceptedEffect i s = (s.storeT (unpackSignedTenths imm)).signalDone .none) ∨
    (∃ imm, i = .scaleH imm ∧
      acceptedEffect i s = (s.storeH (scaleHumidityTenths imm)).signalDone .none) ∨
    (∃ op pin var, (i = .readRaw pin var ∧ op = .readRaw ∨ i = .readScaled pin var ∧ op = .readScaled) ∧
      pin.toNat < s.params.nPins ∧ acceptedEffect i s = s.startRead op pin var) := by
  cases i with
  | nop => exact .inl ⟨.none, rfl⟩
  | readRaw pin var =>
    obtain ⟨h, e⟩ | ⟨-, e⟩ := requestRead_cases .readRaw pin var s
    · exact .inr (.inr (.inr ⟨_, pin, var, .inl ⟨rfl, rfl⟩, h, e⟩))
    · exact .inl ⟨.illegalCmd, e⟩
  | readScaled pin var =>
    obtain ⟨h, e⟩ | ⟨-, e⟩ := requestRead_cases .readScaled pin var s
    · exact .inr (.inr (.inr ⟨_, pin, var, .inr ⟨rfl, rfl⟩, h, e⟩))
    · exact .inl ⟨.illegalCmd, e⟩
  | unpackT imm => exact .inr (.inl ⟨imm, rfl, rfl⟩)
  | scaleH imm => exact .inr (.inr (.inl ⟨imm, rfl, rfl⟩))

/-- Everything exec can do: reject the command while BUSY, or accept it and do its effect. -/
theorem exec_cases {i : Instr} {s t : State} (h : exec i s = .next t) :
    (s.phase ≠ .idle ∧ t = s.rejectWrite) ∨
    (s.phase = .idle ∧ t = acceptedEffect i s.clearStatus) := by
  rw [exec_eq_present] at h
  by_cases hp : s.phase = .idle
  · rw [present_of_idle hp] at h
    exact .inr ⟨hp, (Host.Outcome.next.inj h).symm⟩
  · rw [present_of_busy hp] at h
    exact .inl ⟨hp, (Host.Outcome.next.inj h).symm⟩

/-- No command stops the machine. -/
theorem exec_answers_next (i : Instr) (s : State) : ∃ t, exec i s = .next t := by
  rw [exec_eq_present]
  by_cases hp : s.phase = .idle
  · exact ⟨_, present_of_idle hp⟩
  · exact ⟨_, present_of_busy hp⟩

end Sys2Proof.Machine
end

