-- ==== Sys2Proof/Laws/Data.lean ====
section
/-! SUPPORT. The operand forms and the parameters, said once each: the parameters' ranges, a counter's increment, one
bit stored in the frame, the frame's bytes, and the unit's readings (00_scope.md R8, 10_state.md R19, R20,
42_scale_unit.md R111 to R113). -/

namespace Sys2Proof.Machine

/-! ## Parameters and counters -/

/-- The ranges of R8 and R44. -/
theorem legal_iff {p : Params} : p.legal = true ↔
    (1 ≤ p.tRel ∧ p.tRel ≤ 65535) ∧ (1 ≤ p.tWlow ∧ p.tWlow ≤ 65535) ∧
    (1 ≤ p.tWhigh ∧ p.tWhigh ≤ 65535) ∧ (1 ≤ p.nPins ∧ p.nPins ≤ 16) ∧ p.regBase % 64 = 0 := by
  unfold Params.legal; simp [and_assoc]

/-- The hold time is in the range of a counter. -/
theorem tHold_range (v : Variant) : 1 < tHold v ∧ tHold v ≤ 18000 := by cases v <;> simp [tHold]

/-- A counter below its bound counts without wrapping (R19). -/
theorem counter_succ {c : BitVec 16} {n : Nat} (h : c.toNat < n) (hn : n ≤ 65535) :
    (c + 1).toNat = c.toNat + 1 := by
  rw [BitVec.toNat_add]; simp; omega

/-- BITIDX below 40 counts without wrapping (R19). -/
theorem bitIdx_succ {c : BitVec 6} (h : c.toNat < 40) : (c + 1).toNat = c.toNat + 1 := by
  rw [BitVec.toNat_add]; simp; omega

/-! ## The frame -/

/-- Storing a bit of the frame sets that bit and no other. -/
theorem setFrameBit_getLsbD (sh : BitVec 40) {k j : Nat} (b : Bool) (hj : j < 40) :
    (setFrameBit sh k b).getLsbD j = if j = k then b else sh.getLsbD j := by
  have bit : (1#40 <<< k).getLsbD j = decide (j = k) := by
    rw [BitVec.getLsbD_shiftLeft]
    by_cases h : j = k
    · subst h; simp [hj]
    · by_cases hlt : j < k
      · simp [hlt, h]
      · have : j - k ≠ 0 := by omega
        simp [hj, hlt, h, this]
  unfold setFrameBit
  cases b
  · simp only [Bool.false_eq_true, if_false, BitVec.getLsbD_and, BitVec.getLsbD_not, bit, hj,
      decide_true, Bool.true_and]
    by_cases h : j = k <;> simp [h]
  · simp only [if_true, BitVec.getLsbD_or, bit]
    by_cases h : j = k <;> simp [h]

/-- The bytes of a frame register put together from five bytes (R20). -/
theorem ofShift_append (b0 b1 b2 b3 b4 : Byte) :
    Frame.ofShift (b0 ++ b1 ++ b2 ++ b3 ++ b4) = ⟨b0, b1, b2, b3, b4⟩ := by
  unfold Frame.ofShift
  congr 1 <;>
    (apply BitVec.eq_of_getLsbD_eq
     intro k hk
     simp only [BitVec.getLsbD_extractLsb', BitVec.getLsbD_append, hk])
  · simp [show ¬ 32 + k < 8 by omega, show ¬ 32 + k - 8 < 8 by omega,
      show ¬ 32 + k - 8 - 8 < 8 by omega, show ¬ 32 + k - 8 - 8 - 8 < 8 by omega,
      show 32 + k - 8 - 8 - 8 - 8 = k by omega]
  · simp [show ¬ 24 + k < 8 by omega, show ¬ 24 + k - 8 < 8 by omega,
      show ¬ 24 + k - 8 - 8 < 8 by omega, show 24 + k - 8 - 8 - 8 = k by omega, hk]
  · simp [show ¬ 16 + k < 8 by omega, show ¬ 16 + k - 8 < 8 by omega,
      show 16 + k - 8 - 8 = k by omega, hk]
  · simp [show ¬ 8 + k < 8 by omega, show 8 + k - 8 = k by omega, hk]
  · simp [hk]

/-! ## The unit's readings -/

/-- The sign-and-magnitude reading, as a number of the whole pattern (R111). -/
theorem unpackSignedTenths_eq (r : Half) : unpackSignedTenths r =
    (if 0x8000 ≤ r.toNat then -((r.toNat - 0x8000 : Nat) : Int) else (r.toNat : Int), 10) := by
  have := r.isLt
  have low : (r.extractLsb' 0 15).toNat = r.toNat % 32768 := by simp [BitVec.extractLsb'_toNat]
  unfold unpackSignedTenths
  rw [BitVec.msb_eq_decide, low]
  have sign : (decide (2 ^ (16 - 1) ≤ r.toNat) = true) ↔ 0x8000 ≤ r.toNat := by
    rw [decide_eq_true_eq]; norm_num
  simp only [sign]
  by_cases h : 0x8000 ≤ r.toNat
  · rw [if_pos h, if_pos h, show r.toNat % 32768 = r.toNat - 0x8000 by omega]
  · rw [if_neg h, if_neg h, show r.toNat % 32768 = r.toNat by omega]

/-- The two's-complement reading, as a number of the whole pattern (R112). -/
theorem scaleHumidityTenths_eq (r : Half) : scaleHumidityTenths r =
    (if 0x8000 ≤ r.toNat then (r.toNat : Int) - 0x10000 else (r.toNat : Int), 10) := by
  have := r.isLt
  unfold scaleHumidityTenths
  rw [BitVec.toInt_eq_toNat_cond]
  split <;> split <;> first | omega | norm_num

/-- The ranges of the fine readings (R113). -/
theorem unpackSignedTenths_range (r : Half) :
    -32767 ≤ (unpackSignedTenths r).1 ∧ (unpackSignedTenths r).1 ≤ 32767 := by
  have := r.isLt
  rw [unpackSignedTenths_eq]
  simp only; split <;> omega

theorem scaleHumidityTenths_range (r : Half) :
    -32768 ≤ (scaleHumidityTenths r).1 ∧ (scaleHumidityTenths r).1 ≤ 32767 := by
  have := r.isLt
  rw [scaleHumidityTenths_eq]
  simp only; split <;> omega

/-- A numerator of the unit fits the 32-bit register (R109). -/
theorem ofInt_toInt_of_range {n : Int} (h1 : -32768 ≤ n) (h2 : n ≤ 65535) :
    (BitVec.ofInt 32 n).toInt = n := by
  rw [BitVec.toInt_ofInt]; simp [Int.bmod]; omega

end Sys2Proof.Machine
end

