-- ==== Sys2Proof/Laws/Encoding.lean ====
section
/-! SUPPORT. The byte lanes and the fields of an encoded command (20_memory.md R48, 30_encoding.md R63, R76). -/

namespace Sys2Proof

/-- A word written lane by lane is read back whole. -/
@[simp] theorem ofLanes_lanes (v : Word) : Word.ofLanes v.lanes = v := by
  apply BitVec.eq_of_getLsbD_eq
  intro k hk
  simp only [Word.lanes, Word.ofLanes, BitVec.getLsbD_append, BitVec.getLsbD_extractLsb']
  by_cases h1 : k < 8
  · simp [h1]
  · by_cases h2 : k < 16
    · have : k - 8 < 8 := by omega
      simp [h1, this, show 8 + (k - 8) = k by omega]
    · by_cases h3 : k < 24
      · have e1 : ¬ k - 8 < 8 := by omega
        have e2 : k - 8 - 8 < 8 := by omega
        simp [h1, e1, e2, show 16 + (k - 8 - 8) = k by omega]
      · have e1 : ¬ k - 8 < 8 := by omega
        have e2 : ¬ k - 8 - 8 < 8 := by omega
        have e3 : k - 8 - 8 - 8 < 8 := by omega
        simp [h1, e1, e2, e3, show 24 + (k - 8 - 8 - 8) = k by omega]

/-- The four lanes of a word. -/
@[simp] theorem lanes_length (v : Word) : v.lanes.length = 4 := rfl

theorem lanes_injective {v w : Word} (h : v.lanes = w.lanes) : v = w := by
  rw [← ofLanes_lanes v, h, ofLanes_lanes]

/-- Four lanes are the lanes of the word they carry. -/
theorem lanes_ofLanes {l : List Byte} (h : l.length = 4) : (Word.ofLanes l).lanes = l := by
  match l, h with
  | [b0, b1, b2, b3], _ =>
    simp only [Word.ofLanes, Word.lanes, List.cons.injEq, and_true]
    refine ⟨?_, ?_, ?_, ?_⟩ <;>
      (apply BitVec.eq_of_getLsbD_eq
       intro k hk
       simp only [BitVec.getLsbD_extractLsb', BitVec.getLsbD_append, hk])
    · simp [hk]
    · simp [hk]
    · simp [hk, show ¬ 16 + k < 8 by omega, show 16 + k - 8 = 8 + k by omega]
    · simp [hk, show ¬ 24 + k < 8 by omega, show 24 + k - 8 = 16 + k by omega,
        show ¬ 16 + k < 8 by omega, show 16 + k - 8 = 8 + k by omega]

@[simp] theorem Variant.ofBit_bit (v : Variant) : Variant.ofBit v.bit = v := by
  cases v <;> rfl

end Sys2Proof
end

