-- ==== Sys2Proof/Laws/PerInstr.lean ====
section
/-! SUPPORT. A law of every command as syntax: its encoding lies in its own row of the opcode table, and in no
other's (30_encoding.md R63 to R71). -/

namespace Sys2Proof.Laws.EncodeInOwnRow

/-- The command's word belongs to its row of spec/opcode_table.json and to the row of no other kind of command. -/
def Statement (i : Instr) : Prop := ∀ j : Instr, j.row.covers (encode i) = true ↔ j.row = i.row

/-- A row fixes OP: it is the low nibble of its pattern. -/
theorem op_of_covers {j : Instr} {v : Word} (h : j.row.covers v = true) :
    v &&& 0x0000000F#32 = j.row.pattern := by
  have fixed : j.row.mask &&& 0x0000000F#32 = 0x0000000F#32 ∧
      j.row.pattern &&& 0x0000000F#32 = j.row.pattern := by
    cases j <;> simp [Instr.row]
  have h : v &&& j.row.mask = j.row.pattern := by simpa [TableRow.covers] using h
  rw [← fixed.1, ← BitVec.and_assoc, h, fixed.2]

/-- Rows with one pattern are one row. -/
theorem row_of_pattern {i j : Instr} (h : j.row.pattern = i.row.pattern) : j.row = i.row := by
  cases i <;> cases j <;> simp_all [Instr.row]

/-- A word in the command's own row is in no other. -/
theorem of_covers {i : Instr} (h : i.row.covers (encode i) = true) : Statement i := fun j =>
  ⟨fun hj => row_of_pattern ((op_of_covers hj).symm.trans (op_of_covers h)), fun e => by rw [e]; exact h⟩

/-- The low half of a conversion word is its OP. -/
theorem encodeConv_low (op : BitVec 4) (imm : Half) :
    encodeConv op imm &&& 0x0000FFFF#32 = 0#28 ++ op := by
  apply BitVec.eq_of_getLsbD_eq
  intro k hk
  have low : (0x0000FFFF#32).getLsbD k = decide (k < 16) := by
    revert k; decide
  rw [BitVec.getLsbD_and, low]
  simp only [encodeConv, BitVec.getLsbD_append]
  by_cases h4 : k < 4
  · simp [h4, show k < 16 by omega]
  · by_cases h16 : k < 16
    · simp [h4, show k - 4 < 12 by omega]
    · simp [h4, h16]

theorem nop : Statement .nop := of_covers (by decide)

theorem readRaw (pin : PinNo) (var : Variant) : Statement (.readRaw pin var) :=
  of_covers (by cases var <;> revert pin <;> decide)

theorem readScaled (pin : PinNo) (var : Variant) : Statement (.readScaled pin var) :=
  of_covers (by cases var <;> revert pin <;> decide)

theorem unpackT (imm : Half) : Statement (.unpackT imm) := of_covers (beq_iff_eq.2 (encodeConv_low _ imm))

theorem scaleH (imm : Half) : Statement (.scaleH imm) := of_covers (beq_iff_eq.2 (encodeConv_low _ imm))

end Sys2Proof.Laws.EncodeInOwnRow
end

