-- ==== Sys2Proof/Laws/Runs.lean ====
section
/-! SUPPORT. Runs of ticks, cut and joined, and the steady line levels claims are made over (41_decoder.md R82). -/

namespace Sys2Proof.Machine

@[simp] theorem ticks_nil (s : State) : ticks [] s = s := rfl

@[simp] theorem ticks_cons (lv : Levels) (lvs : List Levels) (s : State) :
    ticks (lv :: lvs) s = ticks lvs (tick lv s) := rfl

/-- A run is run piece by piece. -/
theorem ticks_append (l1 l2 : List Levels) (s : State) :
    ticks (l1 ++ l2) s = ticks l2 (ticks l1 s) := List.foldl_append

@[simp] theorem allLines_getElem (lv : Level) {p : Nat} (h : p < maxLines) : (allLines lv)[p] = lv := by
  simp [allLines]

@[simp] theorem steady_length (lv : Level) (n : Nat) : (steady lv n).length = n := List.length_replicate

@[simp] theorem steady_getElem (lv : Level) (n : Nat) {j : Nat} (h : j < (steady lv n).length) :
    (steady lv n)[j] = allLines lv := List.getElem_replicate h

end Sys2Proof.Machine
end

