-- ==== Sys2Proof/Laws/Step.lean ====
section
/-! SUPPORT. Everything one step can do, said once: the cases of a host access, of a CMD write and of a step
(20_memory.md R44 to R55). -/

namespace Sys2Proof.Machine

/-! ## Addresses -/

theorem windowOffset_eq_some {p : Params} {addr off : Nat} :
    windowOffset p addr = some off ↔ off < 64 ∧ addr = p.regBase + off := by
  unfold windowOffset
  split
  · simp only [Option.some.injEq]; omega
  · simp only [reduceCtorEq, false_iff]; omega

/-- An offset in the window is found again. -/
theorem windowOffset_base (p : Params) {off : Nat} (h : off < 64) :
    windowOffset p (p.regBase + off) = some off :=
  windowOffset_eq_some.2 ⟨h, rfl⟩

theorem ofOffset_eq_cmd {off : Nat} : Reg.ofOffset off = .cmd ↔ off = 0 := by
  unfold Reg.ofOffset
  split_ifs <;> simp_all

theorem ofOffset_eq_intEn {off : Nat} : Reg.ofOffset off = .intEn ↔ off = 8 := by
  unfold Reg.ofOffset
  split_ifs <;> simp_all

theorem ofOffset_eq_intPend {off : Nat} : Reg.ofOffset off = .intPend ↔ off = 12 := by
  unfold Reg.ofOffset
  split_ifs <;> simp_all

/-! ## A host access -/

/-- Everything a CMD write can do (R127, R128). -/
theorem writeCmd_next {v : Word} {s t : State} (h : writeCmd v s = .next t) :
    (s.phase ≠ .idle ∧ t = s.rejectWrite) ∨
    (s.phase = .idle ∧ ∃ i, classify s.params v = .ok i ∧ t = acceptedEffect i s.clearStatus) ∨
    (s.phase = .idle ∧ (∃ e, classify s.params v = .error e) ∧ t = s.clearStatus.illegal) := by
  unfold writeCmd at h
  by_cases hp : s.phase = .idle
  · rw [not_busy_iff.2 hp] at h
    cases hc : classify s.params v with
    | ok i =>
      simp only [hc, Bool.false_eq_true, if_false] at h
      obtain ⟨hb, -⟩ | ⟨-, ht⟩ := exec_cases h
      · exact absurd hp hb
      · exact .inr (.inl ⟨hp, i, rfl, ht⟩)
    | error e =>
      simp only [hc, Bool.false_eq_true, if_false, execIllegal, present_of_idle hp] at h
      exact .inr (.inr ⟨hp, ⟨e, rfl⟩, (Host.Outcome.next.inj h).symm⟩)
  · simp only [busy_iff.2 hp, if_true] at h
    exact .inl ⟨hp, (Host.Outcome.next.inj h).symm⟩

/-- Everything a host access that does not stop the model can do: only answer the host, or write CMD, INT_EN or
INT_PEND (R46, R51, R52). -/
theorem hostAccess_next {a : HostAccess} {s t : State} (h : hostAccess a s = .next t) :
    (∃ r, t = { s with reply := r }) ∨
    (s.inReset = false ∧ ∃ v off, a = .write (s.params.regBase + off) (Word.lanes v) ∧
      ((off = 0 ∧ writeCmd v { s with reply := some .written } = .next t) ∨
       (off = 8 ∧ t = State.writeIntEn v { s with reply := some .written }) ∨
       (off = 12 ∧ t = State.writeIntPend v { s with reply := some .written }))) := by
  unfold hostAccess at h
  split at h
  · cases h
  · next off hoff =>
    obtain ⟨hlt, haddr⟩ := windowOffset_eq_some.1 hoff
    split at h
    · next hacc =>
      simp only [accessAccepted, Bool.and_eq_true, decide_eq_true_eq] at hacc
      cases a with
      | read addr size => exact .inl ⟨_, (Host.Outcome.next.inj h).symm⟩
      | write addr lanes =>
        have hl : lanes.length = 4 := hacc.1
        have ha : addr = s.params.regBase + off := haddr
        simp only [accessReg, writeReg] at h
        split at h
        · exact .inl ⟨_, (Host.Outcome.next.inj h).symm⟩
        · next hr =>
          have hr : s.inReset = false := by simpa using hr
          have e : HostAccess.write addr lanes =
              .write (s.params.regBase + off) (Word.lanes (Word.ofLanes lanes)) := by
            rw [lanes_ofLanes hl, ha]
          split at h
          · next hreg => exact .inr ⟨hr, _, off, e, .inl ⟨ofOffset_eq_cmd.1 hreg, h⟩⟩
          · next hreg =>
            exact .inr ⟨hr, _, off, e,
              .inr (.inl ⟨ofOffset_eq_intEn.1 hreg, (Host.Outcome.next.inj h).symm⟩)⟩
          · next hreg =>
            exact .inr ⟨hr, _, off, e,
              .inr (.inr ⟨ofOffset_eq_intPend.1 hreg, (Host.Outcome.next.inj h).symm⟩)⟩
          all_goals exact .inl ⟨_, (Host.Outcome.next.inj h).symm⟩
    · exact .inl ⟨_, (Host.Outcome.next.inj h).symm⟩

/-! ## The step -/

theorem step_of_legal {s : State} (h : s.params.legal = true) :
    step s = applyInput (nextInput s).1 (nextInput s).2 := by
  simp [step, h]

/-- A step with an input lined up takes it. -/
theorem step_of_input {s : State} {inp : Input} {rest : List Input} (h : s.params.legal = true)
    (hi : s.inputs = inp :: rest) : step s = applyInput inp { s with inputs := rest } := by
  simp [step, h, nextInput, hi]

/-- Taking the input touches the model's own fields only. -/
theorem nextInput_state (s : State) :
    ∃ i d, (nextInput s).2 = { s with inputs := i, draws := d } := by
  unfold nextInput
  split
  · exact ⟨_, s.draws, rfl⟩
  · exact ⟨s.inputs, _, rfl⟩

/-- What a step does to the block, once its input is taken and the host is answered. -/
inductive BlockStep (inp : Input) (u : State) : State → Prop where
  /-- The access only got its reply (R46, R51, R52). -/
  | replied : (∃ a, inp = .host a) → BlockStep inp u u
  /-- Reset is asserted, and the tick does nothing (R154). -/
  | heldTick (lv : Levels) : inp = .tick lv → u.inReset = true → BlockStep inp u u
  /-- A CMD write while BUSY (R128). -/
  | rejected (v : Word) : inp = .host (.write u.params.regBase v.lanes) → u.inReset = false →
      u.phase ≠ .idle → BlockStep inp u u.rejectWrite
  /-- An accepted command (R127). -/
  | accepted (v : Word) (i : Instr) : inp = .host (.write u.params.regBase v.lanes) →
      u.inReset = false → u.phase = .idle → classify u.params v = .ok i →
      BlockStep inp u (acceptedEffect i u.clearStatus)
  /-- An accepted word that is ILLEGAL (R130). -/
  | illegal (v : Word) : inp = .host (.write u.params.regBase v.lanes) → u.inReset = false →
      u.phase = .idle → (∃ e, classify u.params v = .error e) → BlockStep inp u u.clearStatus.illegal
  /-- WR INT_EN (R132). -/
  | intEn (v : Word) : inp = .host (.write (u.params.regBase + 8) v.lanes) → u.inReset = false →
      BlockStep inp u (u.writeIntEn v)
  /-- WR INT_PEND (R133). -/
  | intPend (v : Word) : inp = .host (.write (u.params.regBase + 12) v.lanes) → u.inReset = false →
      BlockStep inp u (u.writeIntPend v)
  /-- A tick (R82). -/
  | ticked (lv : Levels) : inp = .tick lv → u.inReset = false → BlockStep inp u (tick lv u)
  /-- Reset asserted (R153). -/
  | resetOn : inp = .resetLine true → BlockStep inp u u.assertReset
  /-- Reset released (R155). -/
  | resetOff : inp = .resetLine false → BlockStep inp u { u with inReset := false }

/-- Everything a step can do, guards included: the model's own fields change, and then the block makes one of the
moves of BlockStep. -/
theorem step_cases {s t : State} (h : step s = .next t) :
    s.params.legal = true ∧
    ∃ i d r, BlockStep (nextInput s).1 { s with inputs := i, draws := d, reply := r } t := by
  by_cases hl : s.params.legal = true
  · refine ⟨hl, ?_⟩
    rw [step_of_legal hl] at h
    obtain ⟨i, d, hs⟩ := nextInput_state s
    rw [hs] at h
    cases hin : (nextInput s).1 with
    | host a =>
      rw [hin] at h
      obtain ⟨r, ht⟩ | ⟨hr, v, off, ha, hw⟩ := hostAccess_next h
      · exact ⟨i, d, r, ht ▸ .replied ⟨a, rfl⟩⟩
      · refine ⟨i, d, some .written, ?_⟩
        obtain ⟨h0, hc⟩ | ⟨h8, rfl⟩ | ⟨h12, rfl⟩ := hw
        · subst h0
          obtain ⟨hp, rfl⟩ | ⟨hp, j, hj, rfl⟩ | ⟨hp, he, rfl⟩ := writeCmd_next hc
          · exact .rejected v (by rw [ha]; rfl) hr hp
          · exact .accepted v j (by rw [ha]; rfl) hr hp hj
          · exact .illegal v (by rw [ha]; rfl) hr hp he
        · exact .intEn v (by rw [ha, h8]) hr
        · exact .intPend v (by rw [ha, h12]) hr
    | tick lv =>
      rw [hin] at h
      refine ⟨i, d, s.reply, ?_⟩
      have ht := (Host.Outcome.next.inj h).symm
      by_cases hr : s.inReset = true
      · have : t = { s with inputs := i, draws := d, reply := s.reply } := by
          simpa [tickInput, hr] using ht
        rw [this]
        exact .heldTick lv rfl hr
      · have hr : s.inReset = false := by simpa using hr
        have : t = tick lv { s with inputs := i, draws := d, reply := s.reply } := by
          simpa [tickInput, hr] using ht
        rw [this]
        exact .ticked lv rfl hr
    | resetLine b =>
      rw [hin] at h
      refine ⟨i, d, s.reply, ?_⟩
      have ht := (Host.Outcome.next.inj h).symm
      cases b with
      | true => exact (show t = _ from ht) ▸ .resetOn rfl
      | false => exact (show t = _ from ht) ▸ .resetOff rfl
  · exact absurd h (by simp [step, hl])

end Sys2Proof.Machine
end

