-- ==== Sys2Proof/Laws/Tick.lean ====
section
/-! SUPPORT. Everything a tick can do: one lemma a rule of the read sequence, said once as the cases of its result
(41_decoder.md R82 to R103). -/

namespace Sys2Proof.Machine

/-! ## What no tick touches -/

/-- What a tick leaves alone: the latched operands, REJ, DONE_IE, the parameters, the reset input and the model's
own fields. -/
def TickFrame (s t : State) : Prop :=
  SameLatched s t ∧ t.rej = s.rej ∧ t.doneIE = s.doneIE ∧ SameSurroundings s t

theorem TickFrame.refl {s : State} : TickFrame s s := by
  simp [TickFrame, SameLatched, SameSurroundings]

theorem TickFrame.trans {s t u : State} (h1 : TickFrame s t) (h2 : TickFrame t u) : TickFrame s u := by
  simp_all [TickFrame, SameLatched, SameSurroundings]

/-! ## The end of a frame -/

/-- The scaled results are all that scaling writes. -/
theorem scaleResults_eq (s : State) (v : Variant) (rawT rawH : Half) :
    ∃ a b : Scaled, s.scaleResults v rawT rawH = (s.storeT a).storeH b := by
  cases v
  · exact ⟨_, _, rfl⟩
  · exact ⟨_, _, rfl⟩

/-- A valid frame: the raw results, for a scaled read the scaled ones too, and the completion (R101). -/
theorem completeRead_cases (f : Frame) (s : State) :
    (s.curOp = .readRaw ∧ completeRead f s =
      { s with rawT := (f.unpackRaw s.curVar).1, rawH := (f.unpackRaw s.curVar).2 }.complete) ∨
    (s.curOp = .readScaled ∧ completeRead f s =
      ({ s with rawT := (f.unpackRaw s.curVar).1, rawH := (f.unpackRaw s.curVar).2 }.scaleResults
        s.curVar (f.unpackRaw s.curVar).1 (f.unpackRaw s.curVar).2).complete) := by
  unfold completeRead
  cases h : s.curOp <;> simp

/-- What a completed read leaves, but for the result registers (R101). -/
theorem completeRead_ends (f : Frame) (s : State) :
    (completeRead f s).phase = .idle ∧ (completeRead f s).err = .none ∧
    (completeRead f s).done = true ∧ (completeRead f s).doneIP = true ∧
    (completeRead f s).rawT = (f.unpackRaw s.curVar).1 ∧
    (completeRead f s).rawH = (f.unpackRaw s.curVar).2 ∧
    (completeRead f s).bitIdx = s.bitIdx ∧ (completeRead f s).shift = s.shift ∧
    (completeRead f s).ctr = s.ctr ∧ (completeRead f s).mt = s.mt ∧ (completeRead f s).pw = s.pw ∧
    (completeRead f s).msub = s.msub ∧ (completeRead f s).line = s.line ∧
    SamePins s (completeRead f s) ∧ TickFrame s (completeRead f s) := by
  obtain ⟨-, e⟩ | ⟨-, e⟩ := completeRead_cases f s
  · rw [e]; simp [SamePins, TickFrame, SameLatched, SameSurroundings]
  · rw [e]
    obtain ⟨a, b, e2⟩ := scaleResults_eq
      { s with rawT := (f.unpackRaw s.curVar).1, rawH := (f.unpackRaw s.curVar).2 } s.curVar
      (f.unpackRaw s.curVar).1 (f.unpackRaw s.curVar).2
    rw [e2]; simp [SamePins, TickFrame, SameLatched, SameSurroundings]

/-- A frame ends in a completed read or in CHECKSUM_MISMATCH (R98 to R101). -/
theorem finish_cases (s : State) :
    ((Frame.ofShift s.shift).valid = true ∧ finish s = completeRead (Frame.ofShift s.shift) s) ∨
    ((Frame.ofShift s.shift).valid = false ∧ finish s = s.fail .checksumMismatch) := by
  unfold finish
  cases h : (Frame.ofShift s.shift).valid <;> simp [h]

/-- The end of a measurement: the frame ends at the fortieth bit, and another measurement starts otherwise (R96). -/
theorem endBit_cases (b : Bool) (s : State) :
    let s1 := { s with shift := setFrameBit s.shift (39 - s.bitIdx.toNat) b, bitIdx := s.bitIdx + 1 }
    ((s.bitIdx + 1).toNat = nBits ∧ endBit b s = finish s1) ∨
    ((s.bitIdx + 1).toNat ≠ nBits ∧ endBit b s = startBit s1) := by
  intro s1
  by_cases h : (s.bitIdx + 1).toNat = nBits
  · exact .inl ⟨h, by simp only [endBit, h, if_true]; rfl⟩
  · exact .inr ⟨h, by simp only [endBit, h, if_false]; rfl⟩

/-! ## One tick of a measurement -/

/-- The moves of MSUB and PW at a sample that ends no pulse (R90 to R92). -/
inductive SubMove (l : Level) (s : State) : MSub → BitVec 16 → Prop where
  | skipLow : s.msub = .skip → l = .low → SubMove l s .rise s.pw
  | skipHigh : s.msub = .skip → l = .high → SubMove l s .skip s.pw
  | riseHigh : s.msub = .rise → l = .high → SubMove l s .width 1
  | riseLow : s.msub = .rise → l = .low → SubMove l s .rise s.pw
  | widthHigh : s.msub = .width → l = .high → SubMove l s .width (s.pw + 1)

/-- A tick in BITS goes on, ends the measurement at the ceiling with 0, or ends it by the falling edge (R89, R94, R95). -/
theorem bitsTick_cases (l : Level) (s : State) :
    (∃ m p, SubMove l s m p ∧ (s.mt + 1).toNat ≠ tCeil ∧
      bitsTick l s = { s with mt := s.mt + 1, msub := m, pw := p }) ∨
    (∃ m p, SubMove l s m p ∧ (s.mt + 1).toNat = tCeil ∧
      bitsTick l s = endBit false { s with mt := s.mt + 1, msub := m, pw := p }) ∨
    (s.msub = .width ∧ l = .low ∧ bitsTick l s = endBit (bitValue s.pw) { s with mt := s.mt + 1 }) := by
  have go : ∀ m p, SubMove l s m p →
      bitsTick l s = (if (s.mt + 1).toNat = tCeil then
        endBit false { s with mt := s.mt + 1, msub := m, pw := p }
        else { s with mt := s.mt + 1, msub := m, pw := p }) →
      (∃ m p, SubMove l s m p ∧ (s.mt + 1).toNat ≠ tCeil ∧
        bitsTick l s = { s with mt := s.mt + 1, msub := m, pw := p }) ∨
      (∃ m p, SubMove l s m p ∧ (s.mt + 1).toNat = tCeil ∧
        bitsTick l s = endBit false { s with mt := s.mt + 1, msub := m, pw := p }) := by
    intro m p hm he
    by_cases hc : (s.mt + 1).toNat = tCeil
    · exact .inr ⟨m, p, hm, hc, by rw [he, if_pos hc]⟩
    · exact .inl ⟨m, p, hm, hc, by rw [he, if_neg hc]⟩
  rw [← or_assoc]
  cases hs : s.msub <;> cases l
  · exact .inl (go _ _ (.skipLow hs rfl) (by simp [bitsTick, measureTick, skipTick, hs]))
  · exact .inl (go _ _ (.skipHigh hs rfl) (by simp [bitsTick, measureTick, skipTick, hs]))
  · exact .inl (go _ _ (.riseLow hs rfl) (by simp [bitsTick, measureTick, riseTick, hs]))
  · exact .inl (go _ _ (.riseHigh hs rfl) (by simp [bitsTick, measureTick, riseTick, hs]))
  · exact .inr ⟨rfl, rfl, by simp [bitsTick, measureTick, widthTick, hs]⟩
  · exact .inl (go _ _ (.widthHigh hs rfl) (by simp [bitsTick, measureTick, widthTick, hs]))

/-! ## One tick -/

/-- A tick is the phase's rule on the state with the sample in LINE (R82). -/
theorem tick_eq (lv : Levels) (s : State) :
    tick lv s = phaseTick (s.sample lv s.curPin) { s with line := s.sample lv s.curPin } := rfl

theorem finish_frame (s : State) : TickFrame s (finish s) := by
  obtain ⟨-, e⟩ | ⟨-, e⟩ := finish_cases s
  · rw [e]; exact (completeRead_ends _ s).2.2.2.2.2.2.2.2.2.2.2.2.2.2
  · rw [e]; simp [TickFrame, SameLatched, SameSurroundings]

theorem endBit_frame (b : Bool) (s : State) : TickFrame s (endBit b s) := by
  obtain ⟨-, e⟩ | ⟨-, e⟩ := endBit_cases b s
  · rw [e]
    exact finish_frame
      { s with shift := setFrameBit s.shift (39 - s.bitIdx.toNat) b, bitIdx := s.bitIdx + 1 }
  · rw [e]; simp [TickFrame, SameLatched, SameSurroundings]

/-- No tick touches the latched operands, REJ, DONE_IE, the parameters or the model's own fields. -/
theorem tick_frame (lv : Levels) (s : State) : TickFrame s (tick lv s) := by
  rw [tick_eq]
  generalize s.sample lv s.curPin = l
  refine TickFrame.trans (t := { s with line := l }) (by simp [TickFrame, SameLatched, SameSurroundings]) ?_
  generalize ({ s with line := l } : State) = u
  unfold phaseTick
  split
  · exact .refl
  · unfold holdTick
    simp only
    split <;> simp [TickFrame, SameLatched, SameSurroundings, State.releaseLine]
  · unfold relTick
    simp only
    split <;> simp [TickFrame, SameLatched, SameSurroundings]
  · unfold wlowTick
    simp only
    split <;> (try split) <;> simp [TickFrame, SameLatched, SameSurroundings]
  · unfold whighTick
    simp only
    split <;> (try split) <;> simp [TickFrame, SameLatched, SameSurroundings]
  · obtain ⟨m, p, -, -, e⟩ | ⟨m, p, -, -, e⟩ | ⟨-, -, e⟩ := bitsTick_cases l u
    · rw [e]; simp [TickFrame, SameLatched, SameSurroundings]
    · rw [e]; exact endBit_frame _ { u with mt := u.mt + 1, msub := m, pw := p }
    · rw [e]; exact endBit_frame _ { u with mt := u.mt + 1 }

/-! ## A tick at the level of phases -/

/-- DONE, ERR and DONE_IP are unchanged. -/
def SameStatus (s t : State) : Prop := t.done = s.done ∧ t.err = s.err ∧ t.doneIP = s.doneIP

/-- What a tick does to PHASE, the flags, the pins and the results. -/
inductive TickMove (s t : State) : Prop where
  /-- The phase goes on. -/
  | stays : t.phase = s.phase → SameStatus s t → SamePins s t → SameResults s t → TickMove s t
  /-- HOLD ends and the line is released (R84). -/
  | releases : s.phase = .hold → t.phase = .rel → SameStatus s t → SameResults s t →
      t.pinMode = s.pinMode.set s.curPin.toNat .input s.curPin.isLt →
      t.pinLvl = s.pinLvl.set s.curPin.toNat .high s.curPin.isLt → TickMove s t
  /-- The next phase of the handshake or the bits starts (R85 to R87). -/
  | advances : (s.phase = .rel ∧ t.phase = .wlow ∨ s.phase = .wlow ∧ t.phase = .whigh ∨
        s.phase = .whigh ∧ t.phase = .bits) →
      SameStatus s t → SamePins s t → SameResults s t → TickMove s t
  /-- The read fails (R86, R87, R100, R102). -/
  | fails : (s.phase = .wlow ∧ t.err = .noResponse ∨ s.phase = .whigh ∧ t.err = .malformedHandshake ∨
        s.phase = .bits ∧ t.err = .checksumMismatch ∧ (s.bitIdx + 1).toNat = nBits ∧ t.bitIdx = s.bitIdx + 1) →
      t.phase = .idle → t.done = true → t.doneIP = true → SameResults s t →
      t.pinMode = s.pinMode.set s.curPin.toNat .input s.curPin.isLt →
      t.pinLvl = s.pinLvl.set s.curPin.toNat .high s.curPin.isLt → TickMove s t
  /-- The read completes (R101). -/
  | completes : s.phase = .bits → (s.bitIdx + 1).toNat = nBits → t.bitIdx = s.bitIdx + 1 →
      t.phase = .idle → t.err = .none → t.done = true → t.doneIP = true → SamePins s t → TickMove s t

/-- A move from a state that agrees on what a move looks at. -/
theorem TickMove.congr {s u t : State} (h : TickMove u t) (hp : u.phase = s.phase)
    (hst : SameStatus s u) (hpin : SamePins s u) (hres : SameResults s u) (hb : u.bitIdx = s.bitIdx)
    (hc : u.curPin = s.curPin) : TickMove s t := by
  cases s
  cases u
  simp only [SameStatus, SamePins, SameResults, SameRaw, SameScaledT, SameScaledH] at *
  obtain ⟨rfl, rfl, rfl⟩ := hst
  obtain ⟨rfl, rfl⟩ := hpin
  obtain ⟨⟨rfl, rfl⟩, ⟨rfl, rfl, rfl⟩, rfl, rfl, rfl⟩ := hres
  subst hp hb hc
  cases h with
  | stays a b c d => exact .stays a b c d
  | releases a b c d e f => exact .releases a b c d e f
  | advances a b c d => exact .advances a b c d
  | fails a b c d e f g => exact .fails a b c d e f g
  | completes a b c d e f g h => exact .completes a b c d e f g h

theorem endBit_move (b : Bool) (s : State) (hp : s.phase = .bits) : TickMove s (endBit b s) := by
  obtain ⟨hn, e⟩ | ⟨-, e⟩ := endBit_cases b s
  · rw [e]
    generalize hu : ({ s with
      shift := setFrameBit s.shift (39 - s.bitIdx.toNat) b, bitIdx := s.bitIdx + 1 } : State) = u
    obtain ⟨-, e⟩ | ⟨-, e⟩ := finish_cases u
    · obtain ⟨h1, h2, h3, h4, -, -, h5, -, -, -, -, -, -, h6, -⟩ :=
        completeRead_ends (Frame.ofShift u.shift) u
      rw [e]
      exact .completes hp hn (by rw [h5, ← hu]) h1 h2 h3 h4 (by rw [← hu] at h6 ⊢; exact h6)
    · rw [e, ← hu]
      exact .fails (.inr (.inr ⟨hp, rfl, hn, rfl⟩)) rfl rfl rfl
        (by simp [SameResults, SameRaw, SameScaledT, SameScaledH]) rfl rfl
  · rw [e]
    exact .stays rfl (by simp [SameStatus]) (by simp [SamePins])
      (by simp [SameResults, SameRaw, SameScaledT, SameScaledH])

theorem phaseTick_move (l : Level) (s : State) : TickMove s (phaseTick l s) := by
  unfold phaseTick
  split
  · exact .stays rfl (by simp [SameStatus]) (by simp [SamePins])
      (by simp [SameResults, SameRaw, SameScaledT, SameScaledH])
  · next hp =>
    unfold holdTick
    simp only
    split
    · exact .releases hp rfl (by simp [SameStatus, State.releaseLine])
        (by simp [SameResults, SameRaw, SameScaledT, SameScaledH, State.releaseLine]) rfl rfl
    · exact .stays rfl (by simp [SameStatus]) (by simp [SamePins])
        (by simp [SameResults, SameRaw, SameScaledT, SameScaledH])
  · next hp =>
    unfold relTick
    simp only
    split
    · exact .advances (.inl ⟨hp, rfl⟩) (by simp [SameStatus]) (by simp [SamePins])
        (by simp [SameResults, SameRaw, SameScaledT, SameScaledH])
    · exact .stays rfl (by simp [SameStatus]) (by simp [SamePins])
        (by simp [SameResults, SameRaw, SameScaledT, SameScaledH])
  · next hp =>
    unfold wlowTick
    cases l with
    | low =>
      exact .advances (.inr (.inl ⟨hp, rfl⟩)) (by simp [SameStatus]) (by simp [SamePins])
        (by simp [SameResults, SameRaw, SameScaledT, SameScaledH])
    | high =>
      simp only
      split
      · exact .fails (.inl ⟨hp, rfl⟩) rfl rfl rfl
          (by simp [SameResults, SameRaw, SameScaledT, SameScaledH]) rfl rfl
      · exact .stays rfl (by simp [SameStatus]) (by simp [SamePins])
          (by simp [SameResults, SameRaw, SameScaledT, SameScaledH])
  · next hp =>
    unfold whighTick
    cases l with
    | high =>
      exact .advances (.inr (.inr ⟨hp, rfl⟩)) (by simp [SameStatus]) (by simp [SamePins])
        (by simp [SameResults, SameRaw, SameScaledT, SameScaledH])
    | low =>
      simp only
      split
      · exact .fails (.inr (.inl ⟨hp, rfl⟩)) rfl rfl rfl
          (by simp [SameResults, SameRaw, SameScaledT, SameScaledH]) rfl rfl
      · exact .stays rfl (by simp [SameStatus]) (by simp [SamePins])
          (by simp [SameResults, SameRaw, SameScaledT, SameScaledH])
  · next hp =>
    obtain ⟨m, p, -, -, e⟩ | ⟨m, p, -, -, e⟩ | ⟨-, -, e⟩ := bitsTick_cases l s
    · rw [e]
      exact .stays rfl (by simp [SameStatus]) (by simp [SamePins])
        (by simp [SameResults, SameRaw, SameScaledT, SameScaledH])
    · rw [e]
      exact (endBit_move false { s with mt := s.mt + 1, msub := m, pw := p } hp).congr rfl
        (by simp [SameStatus]) (by simp [SamePins])
        (by simp [SameResults, SameRaw, SameScaledT, SameScaledH]) rfl rfl
    · rw [e]
      exact (endBit_move (bitValue s.pw) { s with mt := s.mt + 1 } hp).congr rfl
        (by simp [SameStatus]) (by simp [SamePins])
        (by simp [SameResults, SameRaw, SameScaledT, SameScaledH]) rfl rfl

/-- Everything a tick can do to PHASE, the flags, the pins and the results. -/
theorem tick_move (lv : Levels) (s : State) : TickMove s (tick lv s) := by
  rw [tick_eq]
  exact (phaseTick_move (s.sample lv s.curPin) { s with line := s.sample lv s.curPin }).congr rfl
    (by simp [SameStatus]) (by simp [SamePins])
    (by simp [SameResults, SameRaw, SameScaledT, SameScaledH]) rfl rfl

end Sys2Proof.Machine
end

