-- ==== Sys2Proof/Tests/Slice0.lean ====
section
/-! SUPPORT. Small tests of one step each, their expected values taken from the spec's words and vectors
(95_test_vectors.md), and for every obligation with hypotheses a witness that meets them. -/

namespace Sys2Proof.Tests

open Sys2Proof.Machine

/-! ## Helpers -/

/-- The state after one step, if there is one. -/
def after (s : State) : Option State :=
  match step s with
  | .next t => some t
  | .fault _ => none
  | .refused _ => none

/-- The state with one input lined up. -/
def sees (s : State) (i : Input) : State := { s with inputs := [i] }

/-- `WR <off>, v` on a block at REG_BASE = 0. -/
def wr (off : Nat) (v : Word) : Input := .host (.write (0 + off) v.lanes)

/-- `RD <off>` on a block at REG_BASE = 0. -/
def rd (off : Nat) : Input := .host (.read (0 + off) 4)

/-- Whether one step gives a state with the property. -/
def becomes (s : State) (i : Input) (P : State → Bool) : Bool := (after (sees s i)).any P

/-- A block of four lines, just reset. -/
def fourLines : State := { State.reset with params := { Params.default with nPins := 4 } }

/-- A fine READ_RAW of line 0 has just been accepted. -/
def inHold : State := State.startRead .readRaw 0 .fine State.reset

/-- A read in a later phase of its sequence, its line released. -/
def inPhase (ph : Phase) : State := { State.reset with phase := ph, curVar := .fine }

/-- The last bit of a frame is a pulse of `pw` high ticks; the other bits are those of `sh`. -/
def lastBit (op : ReadOp) (var : Variant) (sh : BitVec 40) (pw : BitVec 16) : State :=
  { State.reset with
    phase := .bits, curOp := op, curVar := var, bitIdx := 39, shift := sh
    msub := .width, mt := 120, pw := pw }

/-- Reset is asserted. -/
def heldInReset : State := State.reset.assertReset

/-! ## Well-formedness refuses a read of a missing line (R66) -/

theorem test_wf_refuses_readRaw_of_line_nPins :
    (Instr.readRaw 4 .fine).wellFormed fourLines.params = false ∧
    (Instr.readRaw 3 .fine).wellFormed fourLines.params = true := by decide

theorem test_wf_refuses_readScaled_of_line_nPins :
    (Instr.readScaled 1 .coarse).wellFormed Params.default = false ∧
    (Instr.readScaled 0 .coarse).wellFormed Params.default = true := by decide

/-! ## Decoding: words written out from the fields of R63 and the rows of opcode_table.json -/

theorem test_decode_nop :
    decode 0b00000000000000000000000000000000#32 = .ok .nop := by decide

/-- IMM16 = 0, reserved 0000, PIN = 1010, reserved 000, VAR = 1, OP = 0001. -/
theorem test_decode_readRaw :
    decode 0b00000000000000000000101000010001#32 = .ok (.readRaw 10 .fine) := by decide

/-- IMM16 = 0, reserved 0000, PIN = 0101, reserved 000, VAR = 0, OP = 0010. -/
theorem test_decode_readScaled :
    decode 0b00000000000000000000010100000010#32 = .ok (.readScaled 5 .coarse) := by decide

/-- IMM16 = 1000000000110010, bits 15 to 4 zero, OP = 0011: V-U1. -/
theorem test_decode_unpackT :
    decode 0b10000000001100100000000000000011#32 = .ok (.unpackT 0x8032) := by decide

/-- IMM16 = 0000001111101000, bits 15 to 4 zero, OP = 0100: V-U11. -/
theorem test_decode_scaleH :
    decode 0b00000011111010000000000000000100#32 = .ok (.scaleH 0x03E8) := by decide

/-- V-C9 and V-C10, and one reserved bit of each field of a read and a conversion. -/
theorem test_decode_rejects :
    decode 0x00000010#32 = .error .reservedBits ∧ decode 0x0000000F#32 = .error .reservedOp ∧
    decode 0x00000081#32 = .error .reservedBits ∧ decode 0x00001002#32 = .error .reservedBits ∧
    decode 0x80000001#32 = .error .reservedBits ∧ decode 0x00008004#32 = .error .reservedBits := by
  decide

/-- V-C7: READ_RAW of line 1 where there is one line. -/
theorem test_classify_rejects_missing_line :
    classify Params.default 0x00000101#32 = .error .pinOutOfRange := by decide

theorem test_decodeTableWord : decodeTableWord 32 0x01F40004 = some (.scaleH 0x01F4) ∧
    decodeTableWord 32 0x00000005 = none := by decide

/-- V-U1, run as the first command after reset. -/
theorem test_withFetchWord : (after (State.reset.withFetchWord 32 0x80320003)).any
    (fun t => t.sclT == 0xFFFFFFCE && t.fltT == 0xC0A00000 && t.tdiv && t.inputs == []) = true := by
  decide

/-! ## The commands, one step each -/

/-- The example of R129. -/
theorem test_nop_clears_error :
    becomes { State.reset with err := .noResponse, rej := true } (wr 0 0x00000000) (fun t =>
      t.err == .none && t.done && t.doneIP && !t.rej && t.phase == .idle) = true := by decide

/-- V-C8: line 3 of four is driven low, line 2 is not. -/
theorem test_readRaw_starts :
    becomes fourLines (wr 0 0x00000311) (fun t =>
      t.phase == .hold && t.curPin == 3 && t.curVar == .fine && t.curOp == .readRaw &&
      t.pinModeAt 3 == .output && t.pinLvlAt 3 == .low && t.pinModeAt 2 == .input &&
      t.pinLvlAt 2 == .high && !t.done) = true := by decide

/-- V-K5: the last tick of the coarse frame 28 55 16 AA 3D. -/
theorem test_readRaw_completes_coarse :
    becomes (lastBit .readRaw .coarse 0x285516AA3C 70) (.tick (allLines .low)) (fun t =>
      t.rawH == 0x0028 && t.rawT == 0x0016 && t.err == .none && t.done && t.sclT == 0 &&
      t.phase == .idle && t.bitIdx == 40) = true := by decide

/-- `READ_SCALED 0, F` latches its operation. -/
theorem test_readScaled_starts :
    becomes State.reset (wr 0 0x00000012) (fun t =>
      t.phase == .hold && t.curOp == .readScaled && t.curVar == .fine && t.statusWord == 0x00001481) =
    true := by decide

/-- V-R2: the last tick of the frame 02 92 80 65 79. -/
theorem test_readScaled_completes_fine :
    becomes (lastBit .readScaled .fine 0x0292806578 70) (.tick (allLines .low)) (fun t =>
      t.rawH == 0x0292 && t.rawT == 0x8065 && t.sclH == 0x00000292 && t.fltH == 0x4283999A &&
      t.sclT == 0xFFFFFF9B && t.fltT == 0xC121999A && t.statusWord == 0x00280702) = true := by decide

/-- V-U6. -/
theorem test_unpackT_negative :
    becomes State.reset (wr 0 0xFFFF0003) (fun t =>
      t.sclT == 0xFFFF8001 && t.fltT == 0xC54CCB33 && t.tdiv && !t.hdiv && t.sclH == 0) = true := by
  decide

/-- V-U4: sign and magnitude zero give positive zero. -/
theorem test_unpackT_minus_zero :
    becomes { State.reset with fltT := 0x3F800000 } (wr 0 0x80000003) (fun t =>
      t.sclT == 0 && t.fltT == 0x00000000 && t.statusWord == 0x00000182) = true := by decide

/-- V-U17. -/
theorem test_scaleH_most_negative :
    becomes State.reset (wr 0 0x80000004) (fun t =>
      t.sclH == 0xFFFF8000 && t.fltH == 0xC54CCCCD && t.hdiv && !t.tdiv && t.sclT == 0) = true := by
  decide

/-- V-U11, with the STATUS word the spec gives after it. -/
theorem test_scaleH_status :
    becomes State.reset (wr 0 0x03E80004) (fun t =>
      t.fltH == 0x42C80000 && t.statusWord == 0x00000282) = true := by decide

/-! ## Rejected and illegal words, and the bus -/

/-- V-C3. -/
theorem test_illegal_word :
    becomes State.reset (wr 0 0x00000005) (fun t => t.statusWord == 0x000000C2 && t.doneIP) = true := by
  decide

/-- V-C11: a write during HOLD sets REJ and nothing else. -/
theorem test_rejected_word :
    becomes { inHold with line := .low } (wr 0 0x00000012) (fun t => t.statusWord == 0x00001405) =
    true := by decide

/-- V-C1. -/
theorem test_reset_status :
    becomes State.reset (rd 0x04) (fun t => t.reply == some (.data [0x80, 0, 0, 0])) = true := by decide

/-- V-B1, V-B2 and V-B3: the bus error, and nothing else. -/
theorem test_bus_error :
    becomes State.reset (.host (.read 0x04 1)) (fun t => t == { State.reset with reply := some .busError }) = true ∧
    becomes State.reset (.host (.read 0x06 4)) (fun t => t == { State.reset with reply := some .busError }) = true ∧
    becomes State.reset (.host (.write 0x00 [0x12, 0x00])) (fun t =>
      t == { State.reset with reply := some .busError }) = true := by decide

/-- V-C16 and V-C13. -/
theorem test_interrupt_bits :
    becomes State.reset (wr 0x08 0xFFFFFFFE) (fun t => !t.doneIE) = true ∧
    becomes { State.reset with doneIP := true } (wr 0x08 0x00000001) (fun t => t.irq) = true ∧
    becomes { State.reset with doneIP := true, doneIE := true, done := true } (wr 0x0C 0x00000001)
      (fun t => !t.irq && !t.doneIP && t.done) = true := by decide

/-! ## Ticks at the bounds -/

/-- V-D3a and V-D3b: the window's last tick. -/
theorem test_first_window_bound :
    becomes { inPhase .wlow with ctr := 199 } (.tick (allLines .low)) (fun t => t.phase == .whigh) = true ∧
    becomes { inPhase .wlow with ctr := 199 } (.tick (allLines .high)) (fun t =>
      t.err == .noResponse && t.done && t.statusWord == 0x00000492) = true := by decide

/-- V-D3c and V-D2. -/
theorem test_second_window_bound :
    becomes { inPhase .whigh with ctr := 199 } (.tick (allLines .high)) (fun t => t.phase == .bits) = true ∧
    becomes { inPhase .whigh with ctr := 199 } (.tick (allLines .low)) (fun t =>
      t.statusWord == 0x00000422) = true := by decide

/-- V-D7a and V-D7b: at the ceiling the edge wins, and a pulse still high reads as 0. -/
theorem test_ceiling :
    becomes { inPhase .bits with msub := .width, mt := 999, pw := 950, bitIdx := 6 } (.tick (allLines .low))
      (fun t => t.shift == 1#40 <<< 33 && t.bitIdx == 7) = true ∧
    becomes { inPhase .bits with msub := .width, mt := 999, pw := 950, bitIdx := 6 } (.tick (allLines .high))
      (fun t => t.shift == 0 && t.bitIdx == 7 && t.msub == .skip) = true := by decide

/-- V-D5a and V-D5b: widths 30 and 31. -/
theorem test_threshold :
    becomes { inPhase .bits with msub := .width, mt := 200, pw := 30 } (.tick (allLines .low))
      (fun t => t.shift == 0) = true ∧
    becomes { inPhase .bits with msub := .width, mt := 200, pw := 31 } (.tick (allLines .low))
      (fun t => t.shift == 0x8000000000) = true := by decide

/-- V-K4: the checksum byte off by one. -/
theorem test_checksum_mismatch :
    becomes (lastBit .readScaled .fine 0x0292806578 27) (.tick (allLines .low)) (fun t =>
      t.err == .checksumMismatch && t.rawH == 0 && t.sclT == 0 && t.done && t.doneIP) = true := by decide

/-! ## States that meet the invariant -/

theorem inv_sees {s : State} (h : s.Inv) (i : Input) : (sees s i).Inv where
  legal := h.legal
  curPinExists := h.curPinExists
  pads := h.pads
  runningStatus := h.runningStatus
  counters := h.counters
  ctrBound := h.ctrBound
  mtBound := h.mtBound
  pwBound := h.pwBound
  bitIdxBound := h.bitIdxBound
  notMeasuring := h.notMeasuring
  pulseSeen := h.pulseSeen
  shiftClear := h.shiftClear
  floatT := h.floatT
  floatH := h.floatH
  rangeT := h.rangeT
  rangeH := h.rangeH
  resetHeld := fun hr => congrArg (fun t => sees t i) (h.resetHeld hr)

theorem inv_inHold : inHold.Inv :=
  ⟨by decide, by decide, by decide, by decide, (by decide : (0#16).toNat < 1200), by decide, by decide,
    by decide, by decide, by decide, by decide, fun k _ => by simp [inHold, State.startRead], by decide,
    by decide, by decide, by decide, by decide⟩

/-- The last tick of HOLD in a block whose release and first window last one tick each. -/
def endOfHold : State :=
  { inHold with ctr := 1199, params := { Params.default with tRel := 1, tWlow := 1 } }

theorem inv_endOfHold : endOfHold.Inv :=
  ⟨by decide, by decide, by decide, by decide, (by decide : (1199#16).toNat < 1200), by decide, by decide,
    by decide, by decide, by decide, by decide,
    fun k _ => by simp [endOfHold, inHold, State.startRead], by decide,
    by decide, by decide, by decide, by decide⟩

theorem inv_lastWhigh : ({ inPhase .whigh with ctr := 199 } : State).Inv :=
  ⟨by decide, by decide, by decide, by decide, (by decide : (199#16).toNat < 200), by decide, by decide,
    by decide, by decide, by decide, by decide, fun k _ => by simp [inPhase, State.reset], by decide,
    by decide, by decide, by decide, by decide⟩

theorem inv_whigh : (inPhase .whigh).Inv :=
  ⟨by decide, by decide, by decide, by decide, (by decide : (0#16).toNat < 200), by decide, by decide,
    by decide, by decide, by decide, by decide, fun k _ => by simp [inPhase, State.reset], by decide,
    by decide, by decide, by decide, by decide⟩

theorem inv_bits : (inPhase .bits).Inv :=
  ⟨by decide, by decide, by decide, by decide,
    (by decide : (0#16).toNat < 1000 ∧ (0#6).toNat < 40), by decide, by decide,
    by decide, by decide, by decide, by decide, fun k _ => by simp [inPhase, State.reset], by decide,
    by decide, by decide, by decide, by decide⟩

theorem inv_lastBit : (lastBit .readScaled .fine 0x0292806578 27).Inv :=
  ⟨by decide, by decide, by decide, by decide,
    (by decide : (120#16).toNat < 1000 ∧ (39#6).toNat < 40), by decide, by decide,
    by decide, by decide, by decide, by decide,
    fun k h => by
      have : k + 39 < 40 := h
      obtain rfl : k = 0 := by omega
      decide,
    by decide, by decide, by decide, by decide, by decide⟩

theorem inv_heldInReset : heldInReset.Inv :=
  ⟨by decide, by decide, by decide, by decide, trivial, by decide, by decide,
    by decide, by decide, by decide, by decide,
    fun k _ => by simp [heldInReset, State.assertReset, State.reset],
    by decide, by decide, by decide, by decide, by decide⟩

/-! ## Witnesses: for each obligation with hypotheses, a state and operands that meet them together -/

theorem witness_DecodeInvertsEncode : decode 0xFFFF0004#32 = .ok (.scaleH 0xFFFF) := by decide

/-- Both causes of the reset table: the constant, and an asserted reset input that answers a next state. -/
theorem witness_ResetStateIsTheResetTable : ∃ t,
    (sees inHold (.resetLine true)).inputs = .resetLine true :: [] ∧
    step (sees inHold (.resetLine true)) = .next t := ⟨_, rfl, rfl⟩

/-- A running read that meets the invariant and steps. -/
theorem witness_StepKeepsInvariant :
    (sees inHold (.tick (allLines .high))).Inv ∧
    ∃ t, step (sees inHold (.tick (allLines .high))) = .next t := ⟨inv_sees inv_inHold _, _, rfl⟩

theorem witness_AssertedResetSetsResetState :
    inHold.params.legal = true ∧
    (sees inHold (.resetLine true)).inputs = .resetLine true :: [] := by decide

/-- Each clause, the accesses at the first and last aligned offsets. -/
theorem witness_AssertedResetHoldsBlock :
    heldInReset.Inv ∧ heldInReset.inReset = true ∧
    (sees heldInReset (.tick (allLines .low))).Inv ∧
    ((60 < 64 ∧ 60 % 4 = 0) ∧
      (sees heldInReset (wr 60 5)).inputs =
        .host (.write (heldInReset.params.regBase + 60) (Word.lanes 5)) :: []) ∧
    ((0 < 64 ∧ 0 % 4 = 0) ∧
      (sees heldInReset (rd 0)).inputs = .host (.read (heldInReset.params.regBase + 0) 4) :: []) :=
  ⟨inv_heldInReset, rfl, inv_sees inv_heldInReset _, by decide, by decide⟩

theorem witness_StepRunsWellFormedCommand :
    fourLines.params.legal = true ∧ fourLines.inReset = false ∧ fourLines.phase = .idle ∧
    (sees fourLines (wr 0 0x00000312)).inputs =
      .host (.write fourLines.params.regBase (Word.lanes 0x00000312)) :: [] ∧
    decode 0x00000312 = .ok (.readScaled 3 .fine) ∧
    (Instr.readScaled 3 .fine).wellFormed fourLines.params = true := by decide

/-- The three clauses: a tick lined up, a release of reset lined up, and nothing lined up. -/
theorem witness_StepTakesOldestInput :
    State.reset.params.legal = true ∧ State.reset.inReset = false ∧
    (sees State.reset (.tick (allLines .low))).inputs = .tick (allLines .low) :: [] ∧
    (sees heldInReset (.resetLine false)).inputs = .resetLine false :: [] ∧
    State.reset.inputs = [] := by decide

theorem witness_CommandWriteWhileBusyIsRejected :
    inHold.params.legal = true ∧ inHold.inReset = false ∧ inHold.phase ≠ .idle ∧
    (sees inHold (wr 0 0x00000005)).inputs =
      .host (.write inHold.params.regBase (Word.lanes 0x00000005)) :: [] := by decide

/-- The two kinds: a word in no row of the table, and a read of the first missing line. -/
theorem witness_IllegalWordCompletesWithError :
    fourLines.params.legal = true ∧ fourLines.inReset = false ∧ fourLines.phase = .idle ∧
    (sees fourLines (wr 0 0x00000013)).inputs =
      .host (.write fourLines.params.regBase (Word.lanes 0x00000013)) :: [] ∧
    (∀ i : Instr, i.row.covers 0x00000013 = false) ∧
    (0x00000401#32 = encode (.readRaw 4 .coarse) ∧ fourLines.params.nPins ≤ (4#4).toNat) :=
  ⟨by decide, by decide, by decide, by decide, fun i => by cases i <;> simp [Instr.row, TableRow.covers],
    by decide⟩

/-- A wrong size at the window's first byte, and a wrong alignment at its last. -/
theorem witness_WrongSizeOrAlignmentGetsBusError :
    State.reset.params.legal = true ∧
    (State.reset.params.regBase ≤ (HostAccess.read 0 2).addr ∧
      (HostAccess.read 0 2).addr < State.reset.params.regBase + 64 ∧ (HostAccess.read 0 2).size ≠ 4) ∧
    (State.reset.params.regBase ≤ (HostAccess.read 63 4).addr ∧
      (HostAccess.read 63 4).addr < State.reset.params.regBase + 64 ∧
      ((HostAccess.read 63 4).addr - State.reset.params.regBase) % 4 ≠ 0) := by decide

/-- The last address below a window at 64, and the first above it. -/
theorem witness_AccessOutsideWindowStops :
    ({ Params.default with regBase := 64 } : Params).legal = true ∧
    (HostAccess.read 63 4).addr < 64 ∧ 64 + 64 ≤ (HostAccess.read 128 4).addr := by decide

/-- The read and the write clause of each register statement, at the offsets named. -/
theorem witness_StatusReadsItsFields :
    inHold.params.legal = true ∧
    (sees inHold (rd 0x04)).inputs = .host (.read (inHold.params.regBase + 0x04) 4) :: [] ∧
    (sees inHold (wr 0x04 0xFFFFFFFF)).inputs =
      .host (.write (inHold.params.regBase + 0x04) (Word.lanes 0xFFFFFFFF)) :: [] := by decide

theorem witness_ResultRegistersReadAndIgnoreWrites :
    State.reset.params.legal = true ∧
    ((0x24 : Nat), State.reset.fltH) ∈ [(0x10, 0#16 ++ State.reset.rawT), (0x14, 0#16 ++ State.reset.rawH),
      (0x18, State.reset.sclT), (0x1C, State.reset.sclH), (0x20, State.reset.fltT),
      (0x24, State.reset.fltH)] ∧
    (sees State.reset (rd 0x24)).inputs =
      .host (.read (State.reset.params.regBase + 0x24) 4) :: [] ∧
    (sees State.reset (wr 0x24 1)).inputs =
      .host (.write (State.reset.params.regBase + 0x24) (Word.lanes 1)) :: [] := by decide

/-- CMD, and the first and last reserved offsets. -/
theorem witness_CmdAndReservedOffsetsReadZero :
    State.reset.params.legal = true ∧
    (sees State.reset (rd 0)).inputs = .host (.read (State.reset.params.regBase + 0) 4) :: [] ∧
    (0x28 ≤ 0x28 ∧ 0x28 ≤ 0x3C ∧ 0x28 % 4 = 0) ∧
    (sees State.reset (rd 0x28)).inputs = .host (.read (State.reset.params.regBase + 0x28) 4) :: [] ∧
    (0x28 ≤ 0x3C ∧ 0x3C ≤ 0x3C ∧ 0x3C % 4 = 0 ∧ 0x3C ≠ 0) ∧
    (sees State.reset (wr 0x3C 1)).inputs =
      .host (.write (State.reset.params.regBase + 0x3C) (Word.lanes 1)) :: [] := by decide

theorem witness_IntEnHoldsDoneIE :
    State.reset.params.legal = true ∧ State.reset.inReset = false ∧
    (sees State.reset (rd 0x08)).inputs = .host (.read (State.reset.params.regBase + 0x08) 4) :: [] ∧
    (sees State.reset (wr 0x08 1)).inputs =
      .host (.write (State.reset.params.regBase + 0x08) (Word.lanes 1)) :: [] := by decide

theorem witness_IntPendHoldsDoneIP :
    State.reset.params.legal = true ∧ State.reset.inReset = false ∧
    (sees State.reset (rd 0x0C)).inputs = .host (.read (State.reset.params.regBase + 0x0C) 4) :: [] ∧
    (sees State.reset (wr 0x0C 1)).inputs =
      .host (.write (State.reset.params.regBase + 0x0C) (Word.lanes 1)) :: [] := by decide

/-- A command written during a read. -/
theorem witness_HostAccessLeavesRunningReadAlone :
    inHold.phase ≠ .idle ∧
    ∃ t, applyInput (.host (.write 0 (Word.lanes 0x00000012))) inHold = .next t := ⟨by decide, _, rfl⟩

/-- An idle block: the hypothesis of NopOnlyCompletes, UnpackTResult, ScaleHResult, ConversionsAreIdempotent and
IdleTickChangesOnlyLine. -/
theorem witness_idle_block : State.reset.phase = .idle := rfl

/-- Both conversions answer a next state there. -/
theorem witness_ConversionsAreIdempotent : State.reset.phase = .idle ∧
    (∃ t, exec (.unpackT 0x8032) State.reset = .next t) ∧
    (∃ t, exec (.scaleH 0x8000) State.reset = .next t) := ⟨rfl, ⟨_, rfl⟩, _, rfl⟩

/-- The last existing line, and the length of a fine start pulse. -/
theorem witness_AcceptedReadStarts :
    fourLines.phase = .idle ∧ (3#4).toNat < fourLines.params.nPins ∧
    steady .high 1200 ≠ [] ∧ (steady .high 1200).length ≤ tHold .fine := by
  refine ⟨rfl, by decide, ?_, by rw [steady_length]; decide⟩
  intro h
  have h := congrArg List.length h
  rw [steady_length] at h
  cases h

/-- The first missing line. -/
theorem witness_ReadOfMissingLineIsIllegal :
    fourLines.phase = .idle ∧ fourLines.params.nPins ≤ (4#4).toNat := by decide

theorem witness_EveryCommandWhileBusyOnlySetsRej : inHold.phase ≠ .idle := by decide

/-- A read that starts, which is the frame's clause on PHASE, and one command of each other kind. -/
theorem witness_CommandFrame :
    (∃ t, exec (.readRaw 0 .fine) State.reset = .next t ∧ t.phase ≠ State.reset.phase) ∧
    (∃ t, exec (.readScaled 0 .coarse) inHold = .next t ∧ t.phase = inHold.phase) ∧
    (∃ t, exec .nop State.reset = .next t ∧ t.phase = State.reset.phase) ∧
    (∃ t, exec (.unpackT 1) State.reset = .next t ∧ t.phase = State.reset.phase) ∧
    (∃ t, exec (.scaleH 1) State.reset = .next t ∧ t.phase = State.reset.phase) :=
  ⟨⟨_, rfl, by decide⟩, ⟨_, rfl, rfl⟩, ⟨_, rfl, rfl⟩, ⟨_, rfl, rfl⟩, _, rfl, rfl⟩

/-- The start of HOLD, with the last length below the hold time and the hold time itself. -/
theorem witness_StartPulseLastsHoldTime :
    inHold.phase = .hold ∧ inHold.ctr = 0 ∧ inHold.pinModeAt inHold.curPin = .output ∧
    inHold.pinLvlAt inHold.curPin = .low ∧ inHold.curVar = .fine ∧
    (steady .high 1199).length < 1200 ∧ (steady .high 1200).length = 1200 :=
  ⟨rfl, rfl, by decide, by decide, rfl, by rw [steady_length]; decide, steady_length _ _⟩

/-- The last tick of REL, with a low at the next tick. -/
theorem witness_RelTickCountsReleaseTime :
    let s : State := { inPhase .rel with ctr := 39 }
    s.phase = .rel ∧ (s.ctr + 1).toNat = s.params.tRel ∧
    s.sample (allLines .low) s.curPin = .low := by decide

/-- Each clause at the window's last tick or the one before it. -/
theorem witness_FirstWindowTick :
    let s : State := { inPhase .wlow with ctr := 199 }
    let r : State := { inPhase .wlow with ctr := 198 }
    s.phase = .wlow ∧ s.sample (allLines .low) s.curPin = .low ∧
    (s.sample (allLines .high) s.curPin = .high ∧ (s.ctr + 1).toNat = s.params.tWlow) ∧
    (r.phase = .wlow ∧ r.sample (allLines .high) r.curPin = .high ∧
      (r.ctr + 1).toNat ≠ r.params.tWlow) := by decide

theorem witness_SecondWindowTick :
    let s : State := { inPhase .whigh with ctr := 199 }
    let r : State := { inPhase .whigh with ctr := 198 }
    s.phase = .whigh ∧ s.sample (allLines .high) s.curPin = .high ∧
    (s.sample (allLines .low) s.curPin = .low ∧ (s.ctr + 1).toNat = s.params.tWhigh) ∧
    (r.phase = .whigh ∧ r.sample (allLines .low) r.curPin = .low ∧
      (r.ctr + 1).toNat ≠ r.params.tWhigh) := by decide

/-- The last tick below the ceiling in each sub-phase. -/
theorem witness_SubPhaseTickBelowCeiling :
    let s : State := { inPhase .bits with mt := 998 }
    s.phase = .bits ∧ (s.mt + 1).toNat ≠ 1000 ∧ s.msub = .skip ∧
    ({ s with msub := .rise } : State).msub = .rise ∧
    (({ s with msub := .width } : State).msub = .width ∧
      s.sample (allLines .high) s.curPin = .high) ∧
    s.sample (allLines .low) s.curPin = .low := by decide

/-- The tick of the ceiling, for the last measurement but one and for the last. -/
theorem witness_CeilingEndsMeasurement :
    let s : State := { inPhase .bits with mt := 999, bitIdx := 38 }
    let r : State := { inPhase .bits with mt := 999, bitIdx := 39 }
    (s.phase = .bits ∧ (s.mt + 1).toNat = 1000 ∧ s.bitIdx.toNat < 39) ∧
    (r.phase = .bits ∧ (r.mt + 1).toNat = 1000 ∧ r.bitIdx.toNat = 39) := by decide

/-- A pulse whose falling edge comes at the ceiling itself (V-D7c). -/
theorem witness_MeasurementReadsPulseWidth :
    (inPhase .bits).phase = .bits ∧ (inPhase .bits).msub = .skip ∧ (inPhase .bits).mt = 0 ∧
    (inPhase .bits).pw = 0 ∧ (inPhase .bits).pinModeAt (inPhase .bits).curPin = .input ∧
    (inPhase .bits).bitIdx.toNat < 39 ∧ Pulse.fits ⟨79, 50, 870⟩ :=
  ⟨rfl, rfl, rfl, rfl, by decide, by decide, by simp [Pulse.fits, tCeil]⟩

theorem witness_EndOfMeasurementStoresBit :
    ({ State.reset with bitIdx := 39 } : State).bitIdx.toNat < 40 := by decide

/-- The frame 02 92 80 65 79 (V-K1), in each variant and for each operation. -/
theorem witness_ValidFrameCompletesRead :
    0x0292806579#40 = 0x02#8 ++ 0x92#8 ++ 0x80#8 ++ 0x65#8 ++ 0x79#8 ∧
    ((0x02#8).toNat + (0x92#8).toNat + (0x80#8).toNat + (0x65#8).toNat) % 256 = (0x79#8).toNat ∧
    (lastBit .readRaw .coarse 0x0292806579 0).curVar = .coarse ∧
    (lastBit .readRaw .coarse 0x0292806579 0).curOp = .readRaw ∧
    (lastBit .readScaled .fine 0x0292806579 0).curVar = .fine ∧
    (lastBit .readScaled .fine 0x0292806579 0).curOp = .readScaled := by decide

/-- The tick clause of the same statement: the last bit, a 1, ends by its edge. -/
theorem witness_ValidFrameCompletesRead_tick :
    let s := lastBit .readScaled .fine 0x0292806578 70
    s.phase = .bits ∧ s.bitIdx = 39 ∧ (tick (allLines .low) s).bitIdx = 40 ∧
    (tick (allLines .low) s).shift = 0x02#8 ++ 0x92#8 ++ 0x80#8 ++ 0x65#8 ++ 0x79#8 := by decide

/-- A READ_SCALED whose last tick ends it without error, and a READ_RAW in BITS. -/
theorem witness_ScaleResultsByVariant :
    let s := lastBit .readScaled .fine 0x0292806578 70
    s.phase = .bits ∧ s.curOp = .readScaled ∧ (tick (allLines .low) s).phase = .idle ∧
    (tick (allLines .low) s).err = .none ∧
    (lastBit .readRaw .coarse 0x285516AA3C 70).phase = .bits ∧
    (lastBit .readRaw .coarse 0x285516AA3C 70).curOp = .readRaw := by decide

/-- The frame 02 92 80 65 78 (V-K4). -/
theorem witness_InvalidFrameFailsRead :
    0x0292806578#40 = 0x02#8 ++ 0x92#8 ++ 0x80#8 ++ 0x65#8 ++ 0x78#8 ∧
    ((0x02#8).toNat + (0x92#8).toNat + (0x80#8).toNat + (0x65#8).toNat) % 256 ≠ (0x78#8).toNat := by
  decide

theorem witness_FineReadAgreesWithConversions :
    let s := lastBit .readScaled .fine 0x0292806579 0
    s.curOp = .readScaled ∧ s.curVar = .fine ∧ (Frame.ofShift s.shift).valid = true ∧
    State.reset.phase = .idle ∧
    (∃ v, exec (.unpackT (finish s).rawT) State.reset = .next v) ∧
    (∃ w, exec (.scaleH (finish s).rawH) State.reset = .next w) :=
  ⟨rfl, rfl, by decide, rfl, ⟨_, rfl⟩, _, rfl⟩

/-- The least and the greatest bit of the data bytes. -/
theorem witness_SingleBitCorruptionIsDetected :
    (Frame.ofShift 0xFFFFFFFFFC).valid = true ∧ (8 ≤ 8 ∧ 8 < 40) ∧ (8 ≤ 39 ∧ 39 < 40) := by decide

/-- Both ends of the unit's range and both denominators; the first is also finite. -/
theorem witness_float_range :
    (-32768 ≤ (-32768 : Int) ∧ (-32768 : Int) ≤ 65535 ∧ (10 = 1 ∨ 10 = 10)) ∧
    (-32768 ≤ (65535 : Int) ∧ (65535 : Int) ≤ 65535 ∧ (1 = 1 ∨ 1 = 10)) ∧
    floatFinite (f32 (-32768) 10) := by
  refine ⟨by decide, by decide, ?_⟩
  simp only [floatFinite]
  decide

/-- A fresh start pulse followed by a line that stays high: 1200 + 40 + 200 ticks (V-D1). The step clause is met by
the last tick of the window, and the clause on where the error comes by the shortest window. -/
theorem witness_NoResponseComesAtItsTick :
    inHold.Inv ∧ inHold.phase = .hold ∧ inHold.ctr = 0 ∧
    (∀ (j : Nat) (h : j < (steady .high 1440).length),
      ((steady .high 1440)[j])[inHold.curPin.toNat]'inHold.curPin.isLt = .high) ∧
    (steady .high 1440).length = tHold inHold.curVar + inHold.params.tRel + inHold.params.tWlow ∧
    becomes { inPhase .wlow with ctr := 199 } (.tick (allLines .high)) (fun t =>
      t.err == .noResponse) = true ∧
    (endOfHold.Inv ∧ endOfHold.phase = .hold ∧
      (ticks (steady .high 2) endOfHold).err ≠ .noResponse ∧
      (ticks (steady .high 2 ++ [allLines .high]) endOfHold).err = .noResponse) :=
  ⟨inv_inHold, rfl, rfl, fun j h => by rw [steady_getElem]; exact allLines_getElem _ _,
    by rw [steady_length]; rfl, by decide, inv_endOfHold, rfl, by decide, by decide⟩

/-- Two hundred low samples from the start of WHIGH (V-D2). -/
theorem witness_MalformedHandshakeComesAtItsTick :
    (inPhase .whigh).Inv ∧ (inPhase .whigh).phase = .whigh ∧ (inPhase .whigh).ctr = 0 ∧
    (∀ (j : Nat) (h : j < (steady .low 200).length),
      ((steady .low 200)[j])[(inPhase .whigh).curPin.toNat]'(inPhase .whigh).curPin.isLt = .low) ∧
    (steady .low 200).length = (inPhase .whigh).params.tWhigh ∧
    becomes { inPhase .whigh with ctr := 199 } (.tick (allLines .low)) (fun t =>
      t.err == .malformedHandshake) = true ∧
    (({ inPhase .whigh with ctr := 199 } : State).Inv ∧
      (ticks [] { inPhase .whigh with ctr := 199 }).err ≠ .malformedHandshake ∧
      (ticks ([] ++ [allLines .low]) { inPhase .whigh with ctr := 199 }).err = .malformedHandshake) :=
  ⟨inv_whigh, rfl, rfl, fun j h => by rw [steady_getElem]; exact allLines_getElem _ _,
    by rw [steady_length]; rfl, by decide, inv_lastWhigh, by decide, by decide⟩

theorem witness_ChecksumMismatchComesAtLastBit :
    (sees (lastBit .readScaled .fine 0x0292806578 27) (.tick (allLines .low))).Inv ∧
    (lastBit .readScaled .fine 0x0292806578 27).err ≠ .checksumMismatch ∧
    becomes (lastBit .readScaled .fine 0x0292806578 27) (.tick (allLines .low)) (fun t =>
      t.err == .checksumMismatch) = true := ⟨inv_sees inv_lastBit _, by decide, by decide⟩

/-- A conversion changes a result register, and so does a reset. -/
theorem witness_ResultsChangeOnlyAtSuccess :
    becomes State.reset (wr 0 0x00010003) (fun t => t.sclT != State.reset.sclT) = true ∧
    becomes { State.reset with rawT := 1 } (.resetLine true) (fun t => t.rawT != 1) = true := by decide

/-- A step that changes PHASE: the acceptance of a read. -/
theorem witness_PhasesFollowTheirOrder :
    becomes State.reset (wr 0 0x00000011) (fun t => t.phase != State.reset.phase) = true := by decide

/-- A read that latches new operands, and both reads at exec. -/
theorem witness_LatchedOperandsHold :
    becomes State.reset (wr 0 0x00000012) (fun t => t.curOp != State.reset.curOp) = true ∧
    (∃ t, exec (.readRaw 3 .fine) fourLines = .next t ∧ fourLines.phase = .idle ∧ t.phase = .hold) ∧
    (∃ t, exec (.readScaled 0 .fine) fourLines = .next t ∧ fourLines.phase = .idle ∧ t.phase = .hold) :=
  ⟨by decide, ⟨_, rfl, rfl, rfl⟩, _, rfl, rfl, rfl⟩

/-- The clauses: a read completes, a command completes at once, DONE_IP is cleared, DONE_IE changes. -/
theorem witness_InterruptBitsChangeOnlyByTheirWrites :
    becomes { inPhase .wlow with ctr := 199 } (.tick (allLines .high)) (fun t => t.phase == .idle) = true ∧
    becomes State.reset (wr 0 0) (fun t => t.phase == .idle) = true ∧
    becomes { State.reset with doneIP := true } (wr 0x0C 1) (fun t => !t.doneIP) = true ∧
    becomes State.reset (wr 0x08 1) (fun t => t.doneIE) = true := by decide

/-- A read of line 3 of four drives that line, and not line 2. -/
theorem witness_OnlyTheReadLineIsDriven :
    becomes fourLines (wr 0 0x00000311) (fun t => t.curPin == 3 && t.pinModeAt 3 == .output) = true ∧
    (2#4) ≠ 3#4 ∧ inHold.Inv ∧ inHold.pinOe 0 = true := ⟨by decide, by decide, inv_inHold, by decide⟩

/-- Forty zeros and ones as a sensor of this kind sends them (waveform W). -/
theorem witness_FortyPulsesAssembleTheFrame :
    (inPhase .bits).Inv ∧ (inPhase .bits).phase = .bits ∧ (inPhase .bits).msub = .skip ∧
    (inPhase .bits).mt = 0 ∧ (inPhase .bits).bitIdx = 0 ∧
    (List.replicate 20 (Pulse.mk 0 50 27) ++ List.replicate 20 (Pulse.mk 0 50 70)).length = 40 ∧
    ∀ p ∈ List.replicate 20 (Pulse.mk 0 50 27) ++ List.replicate 20 (Pulse.mk 0 50 70), p.fits := by
  refine ⟨inv_bits, rfl, rfl, rfl, rfl, by decide, ?_⟩
  intro p hp
  rw [List.mem_append, List.mem_replicate, List.mem_replicate] at hp
  obtain ⟨-, rfl⟩ | ⟨-, rfl⟩ := hp
  · exact ⟨by decide, by decide, by decide⟩
  · exact ⟨by decide, by decide, by decide⟩

/-- A fresh start pulse, and the longest read's number of ticks (V-D10). -/
theorem witness_EveryReadCompletesInBound :
    inHold.Inv ∧ inHold.phase = .hold ∧ inHold.ctr = 0 ∧
    tHold inHold.curVar + inHold.params.tRel + inHold.params.tWlow + inHold.params.tWhigh + 40 * 1000 ≤
      (steady .high 41640).length := by
  refine ⟨inv_inHold, rfl, rfl, ?_⟩
  rw [steady_length]
  decide

end Sys2Proof.Tests
end

/-! PROOF. `f32` rounds the exact quotient to the nearest binary32 number, ties to even, over the unit's range
(00_scope.md R12, 42_scale_unit.md R110).

With `e` the binary exponent of the quotient, the quotient is `x` units of `2 ^ (e - 23)` with `2 ^ 23 ≤ x < 2 ^ 24`,
and the pattern stands for the integer nearest to `x`. Every other pattern stands for a whole number of those units
or for fewer than `2 ^ 23` of them, so none is nearer. -/

namespace Sys2Proof.Machine

/-! ## Rounding to an integer -/

/-- `m` is an integer nearest to `x`, and the even one of two. -/
def IsRoundHalfEven (m : Nat) (x : ℚ) : Prop :=
  2 * |(m : ℚ) - x| ≤ 1 ∧ (2 * |(m : ℚ) - x| = 1 → m % 2 = 0)

/-- `roundHalfEven` in integers: the error it leaves, times the divisor, is at most half the divisor. -/
theorem roundHalfEven_error (num : Nat) {den : Nat} (hden : 0 < den) :
    2 * |(roundHalfEven num den * den : Int) - num| ≤ den ∧
    (2 * |(roundHalfEven num den * den : Int) - num| = den → roundHalfEven num den % 2 = 0) := by
  have hdiv : (den : Int) * ↑(num / den) + ↑(num % den) = num := mod_cast Nat.div_add_mod num den
  have hmod := Nat.mod_lt num hden
  have down : |(↑(num / den) * den : Int) - num| = ↑(num % den) := by
    rw [show (↑(num / den) * den : Int) - num = -↑(num % den) by linarith, abs_neg, Nat.abs_cast]
  have up : |(↑(num / den + 1) * den : Int) - num| = den - ↑(num % den) := by
    rw [show (↑(num / den + 1) * den : Int) - num = den - ↑(num % den) by rw [Nat.cast_succ]; linarith]
    exact abs_of_nonneg (by omega)
  unfold roundHalfEven
  dsimp only
  split_ifs
  · rw [down]; omega
  · rw [up]; omega
  · rw [down]; omega
  · rw [up]; omega

theorem roundHalfEven_isRoundHalfEven (num : Nat) {den : Nat} (hden : 0 < den) :
    IsRoundHalfEven (roundHalfEven num den) (num / den) := by
  obtain ⟨hle, htie⟩ := roundHalfEven_error num hden
  have hden' : (0 : ℚ) < den := mod_cast hden
  have scaled : 2 * |(roundHalfEven num den : ℚ) - num / den| * den =
      ((2 * |(roundHalfEven num den * den : Int) - num| : Int) : ℚ) := by
    push_cast
    rw [mul_assoc, ← abs_of_pos hden', ← abs_mul, abs_of_pos hden', sub_mul, div_mul_cancel₀ _ hden'.ne']
  constructor
  · rw [← mul_le_mul_iff_left₀ hden', scaled, one_mul]
    exact_mod_cast hle
  · intro h
    rw [h, one_mul] at scaled
    exact htie (mod_cast scaled.symm)

/-- Rounding stays between whole numbers that bound the argument. -/
theorem IsRoundHalfEven.bounds {m lo hi : Nat} {x : ℚ} (h : IsRoundHalfEven m x) (hlo : (lo : ℚ) ≤ x)
    (hhi : x < hi) : lo ≤ m ∧ m ≤ hi := by
  obtain ⟨hle, -⟩ := h
  have := abs_le.1 (show |(m : ℚ) - x| ≤ 1 / 2 by linarith)
  constructor
  · have : (lo : ℚ) < m + 1 := by linarith
    exact Nat.lt_succ_iff.1 (mod_cast this)
  · have : (m : ℚ) < hi + 1 := by linarith
    exact Nat.lt_succ_iff.1 (mod_cast this)

/-- No integer is nearer than the rounded one; where another is equally near, the rounded one is even. -/
theorem IsRoundHalfEven.nearest_int {m : Nat} {x : ℚ} (h : IsRoundHalfEven m x) (j : ℤ) :
    |(m : ℚ) - x| ≤ |j - x| ∧ (|(m : ℚ) - x| = |j - x| → (j : ℚ) ≠ m → m % 2 = 0) := by
  obtain ⟨hle, htie⟩ := h
  by_cases hj : j = m
  · subst hj
    simp
  · have apart : (1 : ℚ) ≤ |(j : ℚ) - m| := mod_cast Int.one_le_abs (sub_ne_zero.2 hj)
    have triangle : |(j : ℚ) - m| ≤ |j - x| + |(m : ℚ) - x| := by
      rw [abs_sub_comm (m : ℚ) x]
      exact abs_sub_le _ _ _
    exact ⟨by linarith, fun heq _ => htie (by linarith)⟩

/-- The same in steps of `c`, against a number that is a whole number of steps or lies under a whole number `b`
of steps that the target reaches. -/
theorem IsRoundHalfEven.nearest_scaled {m b : Nat} {x c v : ℚ} (h : IsRoundHalfEven m x) (hb : (b : ℚ) ≤ x)
    (hc : c ≠ 0) (hv : |v| < b * |c| ∨ ∃ j : ℤ, v = j * c) :
    |m * c - x * c| ≤ |v - x * c| ∧ (|m * c - x * c| = |v - x * c| → v ≠ m * c → m % 2 = 0) := by
  have hc' : 0 < |c| := abs_pos.2 hc
  obtain hsmall | ⟨j, rfl⟩ := hv
  · have hy : |v / c| < b := by rwa [abs_div, div_lt_iff₀ hc']
    have toBound : |(m : ℚ) - x| ≤ x - b := by
      have := (h.nearest_int b).1
      rwa [Int.cast_natCast, abs_sub_comm (b : ℚ), abs_of_nonneg (sub_nonneg.2 hb)] at this
    have beyond : x - b < |v / c - x| := by
      rw [abs_sub_comm]
      exact (sub_lt_sub_left (lt_of_abs_lt hy) x).trans_le (le_abs_self _)
    have strict : |m * c - x * c| < |v - x * c| := by
      rw [← div_mul_cancel₀ v hc, ← sub_mul, ← sub_mul, abs_mul, abs_mul]
      exact mul_lt_mul_of_pos_right (toBound.trans_lt beyond) hc'
    exact ⟨strict.le, fun heq => absurd heq strict.ne⟩
  · obtain ⟨hle, htie⟩ := h.nearest_int j
    rw [← sub_mul, ← sub_mul, abs_mul, abs_mul]
    exact ⟨mul_le_mul_of_nonneg_right hle hc'.le,
      fun heq hne => htie (mul_right_cancel₀ hc'.ne' heq) fun hj => hne (by rw [hj])⟩

/-! ## The binary exponent and the significand -/

/-- `floorLog2` is the binary exponent of the quotient. -/
theorem floorLog2_bounds {a d : Nat} (ha : 0 < a) (hd : 0 < d) :
    (2 : ℚ) ^ floorLog2 a d ≤ a / d ∧ (a / d : ℚ) < 2 ^ (floorLog2 a d + 1) := by
  have hd' : (0 : ℚ) < d := mod_cast hd
  have hpos : a * 2 ^ (Nat.log2 d + 1) / d ≠ 0 := by
    have : d < 2 ^ (Nat.log2 d + 1) := Nat.lt_log2_self
    exact (Nat.div_pos (this.le.trans (Nat.le_mul_of_pos_left _ ha)) hd).ne'
  unfold floorLog2
  dsimp only
  generalize Nat.log2 d + 1 = s at hpos ⊢
  have hlo := (Nat.le_div_iff_mul_le hd).1 (Nat.log2_self_le hpos)
  have hhi := (Nat.div_lt_iff_lt_mul hd).1 (Nat.lt_log2_self (n := a * 2 ^ s / d))
  generalize Nat.log2 (a * 2 ^ s / d) = l at hlo hhi
  have hlo' : (2 : ℚ) ^ l * d ≤ a * 2 ^ s := mod_cast hlo
  have hhi' : (a : ℚ) * 2 ^ s < 2 ^ (l + 1) * d := mod_cast hhi
  constructor
  · rwa [zpow_sub₀ two_ne_zero, zpow_natCast, zpow_natCast, div_le_div_iff₀ (by positivity) hd']
  · rwa [show (l : ℤ) - s + 1 = (l + 1 : ℕ) - s by push_cast; ring, zpow_sub₀ two_ne_zero, zpow_natCast,
      zpow_natCast, div_lt_div_iff₀ hd' (by positivity)]

/-- The significand is the rounded number of units of `2 ^ (e - 23)` in the quotient. -/
theorem significand_isRoundHalfEven (a : Nat) {d : Nat} (hd : 0 < d) (e : Int) :
    IsRoundHalfEven (significand a d e) (a / d * 2 ^ (23 - e)) := by
  unfold significand
  dsimp only
  split_ifs with hk
  · obtain ⟨k, hk⟩ := Int.eq_ofNat_of_zero_le hk
    have := roundHalfEven_isRoundHalfEven (a * 2 ^ k) hd
    rw [hk, Int.toNat_natCast, zpow_natCast]
    rwa [Nat.cast_mul, Nat.cast_pow, Nat.cast_ofNat, mul_div_right_comm] at this
  · obtain ⟨k, hk⟩ := Int.eq_ofNat_of_zero_le (show 0 ≤ -(23 - e) by omega)
    have := roundHalfEven_isRoundHalfEven a (show 0 < d * 2 ^ k by positivity)
    rw [hk, Int.toNat_natCast, ← neg_neg (23 - e), hk, zpow_neg, zpow_natCast, ← div_eq_mul_inv, div_div]
    rwa [Nat.cast_mul, Nat.cast_pow, Nat.cast_ofNat] at this

/-- A quotient with binary exponent `e` is at least `2 ^ 23` and under `2 ^ 24` units of `2 ^ (e - 23)`. -/
theorem quotient_in_units {a d : Nat} (ha : 0 < a) (hd : 0 < d) :
    ((2 ^ 23 : Nat) : ℚ) ≤ a / d * 2 ^ (23 - floorLog2 a d) ∧
    (a / d * 2 ^ (23 - floorLog2 a d) : ℚ) < (2 ^ 24 : Nat) := by
  obtain ⟨hlo, hhi⟩ := floorLog2_bounds ha hd
  have hu : (0 : ℚ) < 2 ^ (23 - floorLog2 a d) := by positivity
  constructor
  · calc ((2 ^ 23 : Nat) : ℚ) = 2 ^ floorLog2 a d * 2 ^ (23 - floorLog2 a d) := by
          rw [← zpow_add₀ two_ne_zero, add_sub_cancel]; norm_num
      _ ≤ _ := mul_le_mul_of_nonneg_right hlo hu.le
  · calc (a / d * 2 ^ (23 - floorLog2 a d) : ℚ)
        < 2 ^ (floorLog2 a d + 1) * 2 ^ (23 - floorLog2 a d) := mul_lt_mul_of_pos_right hhi hu
      _ = (2 ^ 24 : Nat) := by
          rw [← zpow_add₀ two_ne_zero, show floorLog2 a d + 1 + (23 - floorLog2 a d) = 24 by ring]; norm_num

theorem significand_bounds {a d : Nat} (ha : 0 < a) (hd : 0 < d) :
    2 ^ 23 ≤ significand a d (floorLog2 a d) ∧ significand a d (floorLog2 a d) ≤ 2 ^ 24 :=
  (significand_isRoundHalfEven a hd _).bounds (quotient_in_units ha hd).1 (quotient_in_units ha hd).2

/-- The exponents of the unit's quotients, from 1/10 to 65535, are far inside the normal range (R113). -/
theorem floorLog2_unit_range {a d : Nat} (ha : 0 < a) (ha' : a ≤ 65535) (hd : d = 1 ∨ d = 10) :
    -4 ≤ floorLog2 a d ∧ floorLog2 a d ≤ 15 := by
  have hd1 : (1 : ℚ) ≤ d := by obtain rfl | rfl := hd <;> norm_num
  have hd10 : (d : ℚ) ≤ 10 := by obtain rfl | rfl := hd <;> norm_num
  have ha1 : (1 : ℚ) ≤ a := mod_cast ha
  have ha2 : (a : ℚ) ≤ 65535 := mod_cast ha'
  obtain ⟨hlo, hhi⟩ := floorLog2_bounds ha (show 0 < d by omega)
  have low : (2 : ℚ) ^ (-4 : ℤ) < 2 ^ (floorLog2 a d + 1) := by
    refine lt_of_lt_of_le ?_ (le_of_lt hhi)
    rw [lt_div_iff₀ (by linarith)]
    norm_num
    linarith
  have high : (2 : ℚ) ^ floorLog2 a d < 2 ^ (16 : ℤ) := by
    refine lt_of_le_of_lt hlo ?_
    rw [div_lt_iff₀ (by linarith)]
    norm_num
    linarith
  have := (zpow_lt_zpow_iff_right₀ one_lt_two).1 low
  have := (zpow_lt_zpow_iff_right₀ one_lt_two).1 high
  omega

/-! ## The value of a pattern -/

/-- The unit `2 ^ (p - 149)`, the spacing of the patterns from `p * 2 ^ 23` on, with a sign. -/
def signedUnit (neg : Bool) (p : Nat) : ℚ :=
  if neg then -2 ^ ((p : ℤ) - 149) else 2 ^ ((p : ℤ) - 149)

theorem abs_signedUnit (neg : Bool) (p : Nat) : |signedUnit neg p| = 2 ^ ((p : ℤ) - 149) := by
  have hpos : (0 : ℚ) < 2 ^ ((p : ℤ) - 149) := by positivity
  cases neg <;> simp [signedUnit, abs_of_pos hpos]

theorem signedUnit_ne_zero (neg : Bool) (p : Nat) : signedUnit neg p ≠ 0 := by
  rw [← abs_pos, abs_signedUnit]
  positivity

/-- A coarser unit is a whole number of finer ones. -/
theorem signedUnit_add (neg neg' : Bool) (p k : Nat) :
    ∃ j : ℤ, signedUnit neg (p + k) = j * signedUnit neg' p := by
  have hsplit : (2 : ℚ) ^ ((p : ℤ) + k - 149) = 2 ^ k * 2 ^ ((p : ℤ) - 149) := by
    rw [← zpow_natCast, ← zpow_add₀ two_ne_zero]
    congr 1
    ring
  refine ⟨if neg = neg' then 2 ^ k else -2 ^ k, ?_⟩
  cases neg <;> cases neg' <;> simp [signedUnit, hsplit]

/-- The magnitude `floatValue` reads from the fields of `p * 2 ^ 23 + m`: the hidden bit of `m` makes the exponent
field `p + 1`, and a carry makes it `p + 2`. -/
theorem magnitude_of_fields {p m : Nat} (hidden : p = 0 ∨ 2 ^ 23 ≤ m) (hm : m ≤ 2 ^ 24) :
    (if (p * 2 ^ 23 + m) / 2 ^ 23 = 0 then ((m % 2 ^ 23 : Nat) : ℚ) * 2 ^ (-149 : ℤ)
      else (2 ^ 23 + ((m % 2 ^ 23 : Nat) : ℚ)) * 2 ^ ((((p * 2 ^ 23 + m) / 2 ^ 23 : Nat) : ℤ) - 150)) =
    m * 2 ^ ((p : ℤ) - 149) := by
  by_cases hsub : m < 2 ^ 23
  · have hp : p = 0 := by omega
    rw [if_pos (by omega), Nat.mod_eq_of_lt hsub, hp, Nat.cast_zero, zero_sub]
  · rw [if_neg (by omega)]
    by_cases hcarry : m = 2 ^ 24
    · rw [show (p * 2 ^ 23 + m) / 2 ^ 23 = p + 2 by omega, hcarry,
        show ((p + 2 : Nat) : ℤ) - 150 = 1 + ((p : ℤ) - 149) by push_cast; ring, zpow_one_add₀ two_ne_zero]
      norm_num
      ring
    · rw [show (p * 2 ^ 23 + m) / 2 ^ 23 = p + 1 by omega, show m % 2 ^ 23 = m - 2 ^ 23 by omega,
        Nat.cast_sub (by omega), show ((p + 1 : Nat) : ℤ) - 150 = (p : ℤ) - 149 by push_cast; ring]
      norm_num

/-- R79 without a case on the exponent field: a pattern that is `p * 2 ^ 23 + m` but for its sign stands for `m`
units, where `m` holds the hidden bit unless `p = 0` (the subnormals); `m` may carry into the exponent. -/
theorem floatValue_of_toNat {w : Word} {neg : Bool} {p m : Nat}
    (hw : w.toNat = (if neg then 2 ^ 31 else 0) + (p * 2 ^ 23 + m)) (hlt : p * 2 ^ 23 + m < 2 ^ 31)
    (hidden : p = 0 ∨ 2 ^ 23 ≤ m) (hm : m ≤ 2 ^ 24) : floatValue w = m * signedUnit neg p := by
  have hexp : (w.extractLsb' 23 8).toNat = (p * 2 ^ 23 + m) / 2 ^ 23 := by
    rw [BitVec.extractLsb'_toNat, hw, Nat.shiftRight_eq_div_pow]
    split <;> omega
  have hfrac : (w.extractLsb' 0 23).toNat = m % 2 ^ 23 := by
    rw [BitVec.extractLsb'_toNat, hw, Nat.shiftRight_zero]
    split <;> omega
  have hmsb : w.msb = neg := by
    rw [BitVec.msb_eq_decide, hw]
    cases neg
    · exact decide_eq_false (by simp; omega)
    · exact decide_eq_true (by simp)
  unfold floatValue
  dsimp only
  rw [hexp, hfrac, hmsb, magnitude_of_fields hidden hm]
  cases neg <;> simp [signedUnit]

/-- Every pattern stands for fewer than `2 ^ 24` units, of some size. -/
theorem exists_floatValue_eq (w : Word) :
    ∃ (neg : Bool) (p m : Nat), m < 2 ^ 24 ∧ floatValue w = m * signedUnit neg p := by
  obtain ⟨r, hr, hw⟩ : ∃ r < 2 ^ 31, w.toNat = (if w.msb then 2 ^ 31 else 0) + r := by
    have := w.isLt
    refine ⟨w.toNat % 2 ^ 31, Nat.mod_lt _ (by norm_num), ?_⟩
    simp only [BitVec.msb_eq_decide, decide_eq_true_eq]
    split <;> omega
  by_cases hsub : r < 2 ^ 23
  · exact ⟨w.msb, 0, r, by omega, floatValue_of_toNat (by omega) (by omega) (.inl rfl) (by omega)⟩
  · exact ⟨w.msb, r / 2 ^ 23 - 1, 2 ^ 23 + r % 2 ^ 23, by omega,
      floatValue_of_toNat (by omega) (by omega) (.inr (by omega)) (by omega)⟩

/-- Every pattern stands for a whole number of a given unit, or for fewer than `2 ^ 23` of it. -/
theorem floatValue_in_units (w : Word) (neg : Bool) (p : Nat) :
    |floatValue w| < (2 ^ 23 : Nat) * |signedUnit neg p| ∨ ∃ j : ℤ, floatValue w = j * signedUnit neg p := by
  obtain ⟨neg', p', m, hm, hv⟩ := exists_floatValue_eq w
  rw [hv]
  obtain hp | hp := Nat.lt_or_ge p' p
  · left
    have hm' : (m : ℚ) < 2 ^ 24 := mod_cast hm
    rw [abs_mul, Nat.abs_cast, abs_signedUnit, abs_signedUnit]
    calc (m : ℚ) * 2 ^ ((p' : ℤ) - 149) < 2 ^ 24 * 2 ^ ((p' : ℤ) - 149) :=
          mul_lt_mul_of_pos_right hm' (by positivity)
      _ = (2 ^ 23 : Nat) * 2 ^ (1 + ((p' : ℤ) - 149)) := by rw [zpow_one_add₀ two_ne_zero]; norm_num; ring
      _ ≤ (2 ^ 23 : Nat) * 2 ^ ((p : ℤ) - 149) := by
          refine mul_le_mul_of_nonneg_left (zpow_le_zpow_right₀ one_le_two ?_) (by positivity)
          omega
  · right
    obtain ⟨k, rfl⟩ := Nat.exists_eq_add_of_le hp
    obtain ⟨j, hj⟩ := signedUnit_add neg' neg p k
    exact ⟨m * j, by rw [hj]; push_cast; ring⟩

/-! ## The pattern `f32` gives -/

theorem f32Magnitude_le (a d : Nat) : f32Magnitude a d ≤ 0x7F800000 := min_le_right _ _

theorem f32_toNat {n : Int} (hn : n ≠ 0) (d : Nat) :
    (f32 n d).toNat = (if n < 0 then 2 ^ 31 else 0) + f32Magnitude n.natAbs d := by
  have hlt : f32Magnitude n.natAbs d < 2 ^ 31 := (f32Magnitude_le _ _).trans_lt (by norm_num)
  have hmod : f32Magnitude n.natAbs d % 2 ^ 32 = f32Magnitude n.natAbs d := Nat.mod_eq_of_lt (by omega)
  unfold f32
  rw [if_neg hn, BitVec.toNat_or, BitVec.toNat_ofNat, hmod]
  split
  · exact (Nat.two_pow_add_eq_or_of_lt hlt 1).symm
  · simp

/-- In the normal range the magnitude is the exponent's field with the significand added, whose hidden bit, or whose
carry, counts the exponent up. -/
theorem f32Magnitude_of_normal {a d : Nat} (ha : 0 < a) (hd : 0 < d) (hlo : -126 ≤ floorLog2 a d)
    (hhi : floorLog2 a d ≤ 126) :
    f32Magnitude a d = (floorLog2 a d + 126).toNat * 2 ^ 23 + significand a d (floorLog2 a d) := by
  have := (significand_bounds ha hd).2
  unfold f32Magnitude
  dsimp only
  rw [max_eq_left hlo]
  exact min_eq_left (by omega)

section normal

variable {n : Int} {d : Nat} (hn : n ≠ 0) (hd : 0 < d) (hlo : -126 ≤ floorLog2 n.natAbs d)
  (hhi : floorLog2 n.natAbs d ≤ 126)
include hn hd hlo hhi

/-- The whole pattern: sign, exponent and significand. -/
theorem f32_toNat_of_normal : (f32 n d).toNat = (if decide (n < 0) then 2 ^ 31 else 0) +
    ((floorLog2 n.natAbs d + 126).toNat * 2 ^ 23 + significand n.natAbs d (floorLog2 n.natAbs d)) := by
  rw [f32_toNat hn, f32Magnitude_of_normal (Int.natAbs_pos.2 hn) hd hlo hhi]
  simp only [decide_eq_true_eq]

theorem floatFinite_f32 : floatFinite (f32 n d) := by
  have hsig := (significand_bounds (Int.natAbs_pos.2 hn) hd).2
  unfold floatFinite
  rw [BitVec.extractLsb'_toNat, f32_toNat_of_normal hn hd hlo hhi, Nat.shiftRight_eq_div_pow]
  split <;> omega

/-- The pattern stands for the significand, in units of the quotient's sign and exponent. -/
theorem floatValue_f32 : floatValue (f32 n d) = significand n.natAbs d (floorLog2 n.natAbs d) *
    signedUnit (decide (n < 0)) (floorLog2 n.natAbs d + 126).toNat := by
  obtain ⟨hsig, hsig'⟩ := significand_bounds (Int.natAbs_pos.2 hn) hd
  exact floatValue_of_toNat (f32_toNat_of_normal hn hd hlo hhi) (by omega) (.inr hsig) hsig'

theorem f32_getLsbD_zero (heven : significand n.natAbs d (floorLog2 n.natAbs d) % 2 = 0) :
    (f32 n d).getLsbD 0 = false := by
  rw [← BitVec.testBit_toNat, f32_toNat_of_normal hn hd hlo hhi, Nat.testBit_zero]
  exact decide_eq_false (by split <;> omega)

omit hn hd hhi in
/-- The exact quotient in the same units. -/
theorem quotient_eq_units : (n : ℚ) / d = n.natAbs / d * 2 ^ (23 - floorLog2 n.natAbs d) *
    signedUnit (decide (n < 0)) (floorLog2 n.natAbs d + 126).toNat := by
  have hunit : (2 : ℚ) ^ (23 - floorLog2 n.natAbs d) *
      2 ^ (((floorLog2 n.natAbs d + 126).toNat : ℤ) - 149) = 1 := by
    rw [← zpow_add₀ two_ne_zero, Int.toNat_of_nonneg (by omega)]
    ring_nf
    exact zpow_zero 2
  have habs : (n.natAbs : ℚ) = |(n : ℚ)| := by rw [Nat.cast_natAbs, Int.cast_abs]
  rw [habs, mul_assoc]
  by_cases hneg : n < 0
  · rw [signedUnit, if_pos (decide_eq_true hneg), mul_neg, hunit, abs_of_neg (mod_cast hneg)]
    ring
  · rw [signedUnit, if_neg (by simpa using hneg), hunit, abs_of_nonneg (mod_cast not_lt.1 hneg), mul_one]

/-- R12 for a quotient in the normal range: no pattern is nearer, and a tie goes to the even significand. -/
theorem f32_nearest (w : Word) :
    |floatValue (f32 n d) - (n : ℚ) / d| ≤ |floatValue w - (n : ℚ) / d| ∧
    (|floatValue (f32 n d) - (n : ℚ) / d| = |floatValue w - (n : ℚ) / d| →
      floatValue w ≠ floatValue (f32 n d) → (f32 n d).getLsbD 0 = false) := by
  rw [floatValue_f32 hn hd hlo hhi, quotient_eq_units hlo]
  obtain ⟨hle, htie⟩ := (significand_isRoundHalfEven n.natAbs hd (floorLog2 n.natAbs d)).nearest_scaled
    (quotient_in_units (Int.natAbs_pos.2 hn) hd).1 (signedUnit_ne_zero _ _) (floatValue_in_units w _ _)
  exact ⟨hle, fun heq hne => f32_getLsbD_zero hn hd hlo hhi (htie heq hne)⟩

end normal

@[simp] theorem f32_zero (d : Nat) : f32 0 d = 0#32 := rfl

@[simp] theorem floatValue_zero : floatValue 0#32 = 0 := by simp [floatValue]

/-- Settles O45: 0 is exact, and the quotients of the other numerators lie in the normal range. -/
theorem floatIsNearestTiesToEven : Obligations.FloatIsNearestTiesToEven := by
  unfold Obligations.FloatIsNearestTiesToEven
  intro n d hlo hhi hd
  by_cases hn : n = 0
  · subst hn
    refine ⟨fun _ => f32_zero d, by simp [floatFinite], fun w _ => ?_⟩
    simp [eq_comm]
  · have hd' : 0 < d := by omega
    obtain ⟨hel, heh⟩ := floorLog2_unit_range (Int.natAbs_pos.2 hn) (by omega) hd
    have hel' : -126 ≤ floorLog2 n.natAbs d := by omega
    have heh' : floorLog2 n.natAbs d ≤ 126 := by omega
    exact ⟨fun h => absurd h hn, floatFinite_f32 hn hd' hel' heh', fun w _ => f32_nearest hn hd' hel' heh' w⟩

end Sys2Proof.Machine

/-! PROOF. Every step keeps State.Inv, the invariant of the block (10_state.md R19 to R28, 42_scale_unit.md R113,
70_reset_and_hazards.md R154).

A tick outside HOLD moves the sequencer's own fields only, so each rule restates the fields it moves and takes the
others from the state before it. The rules that end a read go through the same state with PHASE already IDLE: there
the bounds of the running counters and the flags of a running read ask nothing, and what an end writes after it
depends on no phase. -/

namespace Sys2Proof.Machine

/-! ## The reset state -/

/-- The reset values meet the invariant, with every legal choice of the parameters, at either level of the reset
input. -/
theorem inv_resetValues {p : Params} (hl : p.legal = true) (b : Bool) (i : List Input) (d : Nat)
    (r : Option BusReply) :
    ({ State.reset with inReset := b, params := p, inputs := i, draws := d, reply := r } : State).Inv where
  legal := hl
  curPinExists := by
    obtain ⟨-, -, -, ⟨hpins, -⟩, -⟩ := legal_iff.1 hl
    exact hpins
  pads q := Prod.ext (pinModeAt_reset q) (pinLvlAt_reset q)
  runningStatus h := absurd rfl h
  counters := trivial
  ctrBound := Nat.zero_le _
  mtBound := Nat.zero_le _
  pwBound := Nat.zero_le _
  bitIdxBound := Nat.zero_le _
  notMeasuring h := by simp [State.reset] at h
  pulseSeen h := by cases h
  shiftClear k _ := BitVec.getLsbD_zero
  floatT := rfl
  floatH := rfl
  rangeT := by simp [State.reset]
  rangeH := by simp [State.reset]
  resetHeld h := by cases h; rfl

/-! ## The scaled results -/

/-- What the unit computes, with `lo` the least numerator of a fine reading: tenths or whole units (R113). -/
def InUnitRange (lo : Int) (v : Scaled) : Prop :=
  (v.2 = 10 ∧ lo ≤ v.1 ∧ v.1 ≤ 32767) ∨ (v.2 = 1 ∧ 0 ≤ v.1 ∧ v.1 ≤ 255)

theorem inUnitRange_unpackSignedTenths (r : Half) : InUnitRange (-32767) (unpackSignedTenths r) :=
  .inl ⟨rfl, unpackSignedTenths_range r⟩

theorem inUnitRange_scaleHumidityTenths (r : Half) : InUnitRange (-32768) (scaleHumidityTenths r) :=
  .inl ⟨rfl, scaleHumidityTenths_range r⟩

theorem inUnitRange_coarseUnits {r : Half} (h : r.toNat ≤ 255) (lo : Int) : InUnitRange lo (coarseUnits r) :=
  .inr ⟨rfl, Int.natCast_nonneg _, by simpa [coarseUnits] using h⟩

/-- A numerator of the unit is read back from its 32-bit register (R109). -/
theorem InUnitRange.toInt_ofInt {lo : Int} {v : Scaled} (h : InUnitRange lo v) (hlo : -32768 ≤ lo) :
    (BitVec.ofInt 32 v.1).toInt = v.1 := by
  obtain ⟨-, h1, h2⟩ | ⟨-, h1, h2⟩ := h <;> exact ofInt_toInt_of_range (by omega) (by omega)

theorem InUnitRange.divisor_eq {lo : Int} {v : Scaled} (h : InUnitRange lo v) :
    divisor (decide (v.2 = 10)) = v.2 := by
  obtain ⟨h, -⟩ | ⟨h, -⟩ := h <;> simp [h, divisor]

theorem InUnitRange.numerator_range {lo : Int} {v : Scaled} (h : InUnitRange lo v) :
    if decide (v.2 = 10) then lo ≤ v.1 ∧ v.1 ≤ 32767 else 0 ≤ v.1 ∧ v.1 ≤ 255 := by
  obtain ⟨h, hr⟩ | ⟨h, hr⟩ := h <;> simpa [h] using hr

/-- A coarse frame's raw results are single bytes (R74). -/
theorem unpackRaw_coarse_le (f : Frame) :
    (f.unpackRaw .coarse).1.toNat ≤ 255 ∧ (f.unpackRaw .coarse).2.toNat ≤ 255 := by
  have h0 := f.byte0.isLt
  have h2 := f.byte2.isLt
  simp only [Frame.unpackRaw, BitVec.truncate_eq_setWidth, BitVec.toNat_setWidth]
  omega

/-! ## Updates that keep the invariant

An update of the block itself comes only out of reset, where the invariant's clause on an asserted reset asks
nothing. -/

section updates

variable {s : State} (h : s.Inv)

include h

/-- The model's own fields are no part of the block. -/
theorem State.Inv.setModel (i : List Input) (d : Nat) (r : Option BusReply) :
    ({ s with inputs := i, draws := d, reply := r } : State).Inv :=
  { h with
    resetHeld := fun hr =>
      congrArg (fun t : State => { t with inputs := i, draws := d, reply := r }) (h.resetHeld hr) }

theorem State.Inv.releaseReset : ({ s with inReset := false } : State).Inv :=
  { h with resetHeld := fun hr => by cases hr }

/-- Only while a read runs are DONE and ERR held. -/
theorem State.Inv.setFlags (hr : s.inReset = false) {d : Bool} {e : ErrKind}
    (hrun : s.phase ≠ .idle → d = false ∧ e = .none) (rj ie ip : Bool) :
    ({ s with done := d, err := e, rej := rj, doneIE := ie, doneIP := ip } : State).Inv :=
  { h with runningStatus := hrun, resetHeld := by simp [hr] }

theorem State.Inv.setLine (hr : s.inReset = false) (l : Level) : ({ s with line := l } : State).Inv :=
  { h with resetHeld := by simp [hr] }

theorem State.Inv.setRaw (hr : s.inReset = false) (t u : Half) :
    ({ s with rawT := t, rawH := u } : State).Inv :=
  { h with resetHeld := by simp [hr] }

theorem State.Inv.storeT (hr : s.inReset = false) {v : Scaled} (hv : InUnitRange (-32767) v) :
    (s.storeT v).Inv :=
  { h with
    floatT := by simp [hv.toInt_ofInt (by decide), hv.divisor_eq]
    rangeT := by
      rw [storeT_tdiv, storeT_sclT, hv.toInt_ofInt (by decide)]
      exact hv.numerator_range
    resetHeld := by simp [hr] }

theorem State.Inv.storeH (hr : s.inReset = false) {v : Scaled} (hv : InUnitRange (-32768) v) :
    (s.storeH v).Inv :=
  { h with
    floatH := by simp [hv.toInt_ofInt (by decide), hv.divisor_eq]
    rangeH := by
      rw [storeH_hdiv, storeH_sclH, hv.toInt_ofInt (by decide)]
      exact hv.numerator_range
    resetHeld := by simp [hr] }

end updates

/-- Every line but the one a read holds low is released (R104). -/
theorem State.Inv.pad_released {s : State} (h : s.Inv) {q : PinNo} (hq : ¬ (s.phase = .hold ∧ q = s.curPin)) :
    s.pinModeAt q = .input ∧ s.pinLvlAt q = .high := by
  have hpad := h.pads q
  rw [State.padOf, if_neg hq] at hpad
  exact Prod.mk.inj hpad

/-! ## The ends of a command

An end is stated from the state it ends in with PHASE already IDLE. -/

theorem State.Inv.scaleResults {s : State} (h : s.Inv) (hr : s.inReset = false) (v : Variant) {rawT rawH : Half}
    (hc : v = .coarse → rawT.toNat ≤ 255 ∧ rawH.toNat ≤ 255) : (s.scaleResults v rawT rawH).Inv := by
  cases v with
  | fine =>
    exact (h.storeT hr (inUnitRange_unpackSignedTenths rawT)).storeH hr (inUnitRange_scaleHumidityTenths rawH)
  | coarse =>
    obtain ⟨ht, hh⟩ := hc rfl
    exact (h.storeT hr (inUnitRange_coarseUnits ht _)).storeH hr (inUnitRange_coarseUnits hh _)

/-- Scaling does not look at PHASE. -/
theorem scaleResults_setPhase (s : State) (ph : Phase) (v : Variant) (rawT rawH : Half) :
    { s.scaleResults v rawT rawH with phase := ph } = { s with phase := ph }.scaleResults v rawT rawH := by
  cases v <;> rfl

section ends

variable {s : State} (h : ({ s with phase := .idle } : State).Inv) (hr : s.inReset = false)

include h hr

theorem inv_complete : s.complete.Inv := h.setFlags hr (fun hp => absurd rfl hp) _ _ _

/-- An idle block's lines are all released, so releasing one more changes no pad. -/
theorem inv_fail (e : ErrKind) : (s.fail e).Inv :=
  { h.setFlags hr (d := true) (e := e) (fun hp => absurd rfl hp) s.rej s.doneIE true with
    pads := fun p => by
      obtain ⟨hm, hl⟩ := h.pad_released (q := p) (by simp)
      rw [pinModeAt_fail, pinLvlAt_fail, show s.pinModeAt p = _ from hm, show s.pinLvlAt p = _ from hl]
      simp [State.padOf]
    resetHeld := by simp [hr] }

theorem inv_completeRead (f : Frame) : (completeRead f s).Inv := by
  obtain ⟨-, e⟩ | ⟨-, e⟩ := completeRead_cases f s
  · rw [e]
    exact inv_complete (h.setRaw hr _ _) hr
  · have hc : s.curVar = .coarse → (f.unpackRaw s.curVar).1.toNat ≤ 255 ∧
        (f.unpackRaw s.curVar).2.toNat ≤ 255 := fun hv => hv ▸ unpackRaw_coarse_le f
    have hs := (h.setRaw hr (f.unpackRaw s.curVar).1 (f.unpackRaw s.curVar).2).scaleResults hr s.curVar hc
    rw [e]
    refine inv_complete ?_ ?_
    · rw [scaleResults_setPhase]
      exact hs
    · obtain ⟨a, b, e⟩ := scaleResults_eq _ s.curVar _ _
      rw [e]
      exact hr

theorem inv_finish : (finish s).Inv := by
  obtain ⟨-, e⟩ | ⟨-, e⟩ := finish_cases s
  · exact e ▸ inv_completeRead h hr _
  · exact e ▸ inv_fail h hr _

end ends

/-! ## The commands -/

theorem State.Inv.startRead {s : State} (h : s.Inv) (hr : s.inReset = false) (hp : s.phase = .idle)
    (hd : s.done = false) (he : s.err = .none) (op : ReadOp) {pin : PinNo} (hpin : pin.toNat < s.params.nPins)
    (var : Variant) : (s.startRead op pin var).Inv :=
  { h with
    curPinExists := hpin
    pads := fun q => by
      obtain ⟨hm, hl⟩ := h.pad_released (q := q) (by simp [hp])
      rw [pinModeAt_startRead, pinLvlAt_startRead, hm, hl]
      by_cases hq : q = pin <;> simp [State.padOf, hq]
    runningStatus := fun _ => ⟨hd, he⟩
    counters := show (0 : Nat) < tHold var from Nat.lt_trans Nat.zero_lt_one (tHold_range var).1
    ctrBound := Nat.zero_le _
    mtBound := Nat.zero_le _
    pwBound := Nat.zero_le _
    bitIdxBound := Nat.zero_le _
    notMeasuring := fun _ => ⟨rfl, rfl, rfl, rfl⟩
    pulseSeen := fun hb => by cases hb
    shiftClear := fun k _ => BitVec.getLsbD_zero
    resetHeld := by simp [hr] }

theorem State.Inv.clearStatus {s : State} (h : s.Inv) (hr : s.inReset = false) : s.clearStatus.Inv :=
  h.setFlags hr (fun _ => ⟨rfl, rfl⟩) _ _ _

theorem State.Inv.signalDone {s : State} (h : s.Inv) (hr : s.inReset = false) (hp : s.phase = .idle)
    (e : ErrKind) : (s.signalDone e).Inv :=
  h.setFlags hr (fun hb => absurd hp hb) _ _ _

theorem State.Inv.acceptedEffect {s : State} (h : s.Inv) (hr : s.inReset = false) (hp : s.phase = .idle)
    (i : Instr) : (acceptedEffect i s.clearStatus).Inv := by
  have hc := h.clearStatus hr
  obtain ⟨e, he⟩ | ⟨imm, -, he⟩ | ⟨imm, -, he⟩ | ⟨op, pin, var, -, hpin, he⟩ :=
    acceptedEffect_cases i s.clearStatus
  · exact he ▸ hc.signalDone hr hp e
  · exact he ▸ (hc.storeT hr (inUnitRange_unpackSignedTenths imm)).signalDone hr hp .none
  · exact he ▸ (hc.storeH hr (inUnitRange_scaleHumidityTenths imm)).signalDone hr hp .none
  · exact he ▸ hc.startRead hr hp rfl rfl op hpin var

/-! ## The tick -/

/-- The bound of CTR in every phase (R19). -/
def ctrMax (p : Params) : Nat := max 18000 (max p.tRel (max p.tWlow p.tWhigh))

theorem le_ctrMax (p : Params) (v : Variant) :
    tHold v ≤ ctrMax p ∧ p.tRel ≤ ctrMax p ∧ p.tWlow ≤ ctrMax p ∧ p.tWhigh ≤ ctrMax p := by
  have hT := (tHold_range v).2
  unfold ctrMax
  omega

theorem State.Inv.ctr_le {s : State} (h : s.Inv) : s.ctr.toNat ≤ ctrMax s.params := h.ctrBound

/-- A running counter counts without wrapping (R19). -/
theorem State.Inv.ctr_succ {s : State} (h : s.Inv) {n : Nat} (hlt : s.ctr.toNat < n)
    (hn : n ≤ ctrMax s.params) : (s.ctr + 1).toNat = s.ctr.toNat + 1 := by
  obtain ⟨⟨-, h1⟩, ⟨-, h2⟩, ⟨-, h3⟩, -⟩ := legal_iff.1 h.legal
  unfold ctrMax at hn
  exact counter_succ hlt (by omega)

theorem State.Inv.ctr_succ_le {s : State} (h : s.Inv) {n : Nat} (hlt : s.ctr.toNat < n)
    (hn : n ≤ ctrMax s.params) : (s.ctr + 1).toNat ≤ ctrMax s.params := by
  rw [h.ctr_succ hlt hn]
  omega

/-- A tick that only counts, `n` being the bound of the phase's counter. -/
theorem State.Inv.count {s : State} (h : s.Inv) (hr : s.inReset = false) {n : Nat} (hlt : s.ctr.toNat < n)
    (hn : n ≤ ctrMax s.params)
    (hbound : ∀ c : BitVec 16, c.toNat < n → ({ s with ctr := c } : State).counterInRange)
    (hne : (s.ctr + 1).toNat ≠ n) : ({ s with ctr := s.ctr + 1 } : State).Inv := by
  have hs := h.ctr_succ hlt hn
  exact { h with
    counters := hbound _ (by omega)
    ctrBound := h.ctr_succ_le hlt hn
    resetHeld := by simp [hr] }

/-- A read outside HOLD that stops where it is, with CTR, MT, PW and MSUB at any values in their bounds. -/
theorem State.Inv.stop {s : State} (h : s.Inv) (hr : s.inReset = false) (hp : s.phase ≠ .hold)
    {c m p : BitVec 16} (u : MSub) (hc : c.toNat ≤ ctrMax s.params) (hm : m.toNat ≤ tCeil)
    (hpw : p.toNat ≤ m.toNat) :
    ({ s with phase := .idle, ctr := c, mt := m, pw := p, msub := u } : State).Inv :=
  { h with
    pads := fun q => Prod.ext_iff.2 (h.pad_released (by simp [hp]))
    runningStatus := fun hi => absurd rfl hi
    counters := trivial
    ctrBound := hc
    mtBound := hm
    pwBound := hpw
    notMeasuring := fun hi => by simp at hi
    pulseSeen := fun hb => by cases hb
    resetHeld := by simp [hr] }

section ticks

variable {s : State} (h : s.Inv) (hr : s.inReset = false)

include h hr

theorem inv_holdTick (hp : s.phase = .hold) : (holdTick s).Inv := by
  have hc : s.ctr.toNat < tHold s.curVar := by simpa [State.counterInRange, hp] using h.counters
  obtain ⟨hle, -⟩ := le_ctrMax s.params s.curVar
  obtain ⟨⟨hrel, -⟩, -⟩ := legal_iff.1 h.legal
  unfold holdTick
  dsimp only
  split
  · exact { h with
      pads := fun q => by
        change ((s.releaseLine s.curPin).pinModeAt q, (s.releaseLine s.curPin).pinLvlAt q) = (.input, .high)
        rw [State.releaseLine, pinModeAt_setPin, pinLvlAt_setPin]
        by_cases hq : q = s.curPin
        · simp [hq]
        · simp [hq, h.pad_released (q := q) (by simp [hq])]
      runningStatus := fun _ => h.runningStatus (by simp [hp])
      counters := hrel
      ctrBound := Nat.zero_le _
      notMeasuring := fun _ => h.notMeasuring (.inl hp)
      pulseSeen := fun hb => by cases hb
      resetHeld := by simp [State.releaseLine, hr] }
  · next hne => exact h.count hr hc hle (fun c hc => by simpa [State.counterInRange, hp] using hc) hne

/-- The handshake goes on to its next phase (R85, R86). -/
theorem inv_nextWindow {ph : Phase} (hs : s.phase = .rel ∨ s.phase = .wlow) (hph : ph = .wlow ∨ ph = .whigh) :
    ({ s with phase := ph, ctr := 0 } : State).Inv := by
  obtain ⟨-, ⟨hlow, -⟩, ⟨hhigh, -⟩, -⟩ := legal_iff.1 h.legal
  have hhold : s.phase ≠ .hold := by rcases hs with hs | hs <;> simp [hs]
  have hidle : s.phase ≠ .idle := by rcases hs with hs | hs <;> simp [hs]
  exact { h with
    pads := fun q => by
      rw [State.padOf, if_neg (by rcases hph with rfl | rfl <;> simp)]
      exact Prod.ext_iff.2 (h.pad_released (by simp [hhold]))
    runningStatus := fun _ => h.runningStatus hidle
    counters := by
      rcases hph with rfl | rfl
      · exact hlow
      · exact hhigh
    ctrBound := Nat.zero_le _
    notMeasuring := fun _ => h.notMeasuring (.inr (hs.imp_right .inl))
    pulseSeen := fun hb => by rcases hph with rfl | rfl <;> cases hb
    resetHeld := by simp [hr] }

theorem inv_relTick (hp : s.phase = .rel) : (relTick s).Inv := by
  have hc : s.ctr.toNat < s.params.tRel := by simpa [State.counterInRange, hp] using h.counters
  obtain ⟨-, hle, -⟩ := le_ctrMax s.params s.curVar
  unfold relTick
  dsimp only
  split
  · exact inv_nextWindow h hr (.inl hp) (.inl rfl)
  · next hne => exact h.count hr hc hle (fun c hc => by simpa [State.counterInRange, hp] using hc) hne

/-- A window that closes without its edge ends the read (R86, R87). -/
theorem inv_closeWindow {n : Nat} (hp : s.phase ≠ .hold) (hc : s.ctr.toNat < n) (hn : n ≤ ctrMax s.params)
    (e : ErrKind) : (State.fail e { s with ctr := s.ctr + 1 }).Inv :=
  inv_fail (s := { s with ctr := s.ctr + 1 })
    (h.stop hr hp s.msub (h.ctr_succ_le hc hn) h.mtBound h.pwBound) hr e

/-- The first bit measurement starts (R87, R88). -/
theorem inv_startBits {c : BitVec 16} (hp : s.phase = .whigh) (hc : c.toNat ≤ ctrMax s.params) :
    (startBit { s with ctr := c, phase := .bits, bitIdx := 0 }).Inv := by
  obtain ⟨hb, -⟩ := h.notMeasuring (by simp [hp])
  exact { h with
    pads := fun q => Prod.ext_iff.2 (h.pad_released (by simp [hp]))
    runningStatus := fun _ => h.runningStatus (by simp [hp])
    counters := (by decide : (0#16).toNat < tCeil ∧ (0#6).toNat < nBits)
    ctrBound := hc
    mtBound := Nat.zero_le _
    pwBound := Nat.zero_le _
    bitIdxBound := Nat.zero_le _
    notMeasuring := fun hi => by simp at hi
    pulseSeen := fun _ hw => by cases hw
    shiftClear := fun k hk => h.shiftClear k (hb ▸ hk)
    resetHeld := by simp [hr] }

theorem inv_wlowTick (l : Level) (hp : s.phase = .wlow) : (wlowTick l s).Inv := by
  have hc : s.ctr.toNat < s.params.tWlow := by simpa [State.counterInRange, hp] using h.counters
  obtain ⟨-, -, hle, -⟩ := le_ctrMax s.params s.curVar
  unfold wlowTick
  cases l with
  | low => exact inv_nextWindow h hr (.inr hp) (.inr rfl)
  | high =>
    dsimp only
    split
    · exact inv_closeWindow h hr (by simp [hp]) hc hle _
    · next hne => exact h.count hr hc hle (fun c hc => by simpa [State.counterInRange, hp] using hc) hne

theorem inv_whighTick (l : Level) (hp : s.phase = .whigh) : (whighTick l s).Inv := by
  have hc : s.ctr.toNat < s.params.tWhigh := by simpa [State.counterInRange, hp] using h.counters
  obtain ⟨-, -, -, hle⟩ := le_ctrMax s.params s.curVar
  unfold whighTick
  cases l with
  | low =>
    dsimp only
    split
    · exact inv_closeWindow h hr (by simp [hp]) hc hle _
    · next hne => exact h.count hr hc hle (fun c hc => by simpa [State.counterInRange, hp] using hc) hne
  | high => exact inv_startBits h hr hp (h.ctr_succ_le hc hle)

end ticks

/-! ## The tick of a measurement -/

/-- A pulse is no longer than the measurement it is part of (R19). -/
theorem SubMove.pw_le {l : Level} {s : State} {m : MSub} {p : BitVec 16} (hm : SubMove l s m p)
    (hpw : s.pw.toNat ≤ s.mt.toNat) (hmt : s.mt.toNat < tCeil) : p.toNat ≤ s.mt.toNat + 1 := by
  cases hm with
  | riseHigh => exact Nat.succ_le_succ (Nat.zero_le _)
  | widthHigh =>
    rw [counter_succ (Nat.lt_of_le_of_lt hpw hmt) (by decide)]
    omega
  | skipLow | skipHigh | riseLow => omega

/-- A pulse being measured has been seen high (R91). -/
theorem SubMove.pulseSeen {l : Level} {s : State} {p : BitVec 16} (hm : SubMove l s .width p)
    (hpw : s.pw.toNat ≤ s.mt.toNat) (hmt : s.mt.toNat < tCeil) : 1 ≤ p.toNat := by
  cases hm with
  | riseHigh => exact le_refl 1
  | widthHigh =>
    rw [counter_succ (Nat.lt_of_le_of_lt hpw hmt) (by decide)]
    omega

/-- A bit stored and counted leaves the bits not yet received 0 (R20, R96). -/
theorem shiftClear_setFrameBit {sh : BitVec 40} {n : BitVec 6} (hn : n.toNat < nBits) (b : Bool)
    (hclear : ∀ k, k + n.toNat < nBits → sh.getLsbD k = false) {k : Nat} (hk : k + (n + 1).toNat < nBits) :
    (setFrameBit sh (39 - n.toNat) b).getLsbD k = false := by
  have hs := bitIdx_succ hn
  simp only [nBits] at *
  rw [setFrameBit_getLsbD sh b (by omega), if_neg (by omega)]
  exact hclear k (by omega)

/-- The end of a measurement, from a block that would meet the invariant with the read stopped (R96). -/
theorem inv_endBit {s : State} (h : ({ s with phase := .idle } : State).Inv) (hr : s.inReset = false)
    (hp : s.phase = .bits) (hst : s.done = false ∧ s.err = .none) (hb : s.bitIdx.toNat < nBits) (b : Bool) :
    (endBit b s).Inv := by
  have hs := bitIdx_succ hb
  obtain ⟨-, e⟩ | ⟨hne, e⟩ := endBit_cases b s
  · rw [e]
    exact inv_finish
      (s := { s with shift := setFrameBit s.shift (39 - s.bitIdx.toNat) b, bitIdx := s.bitIdx + 1 })
      { h with
        notMeasuring := fun hi => by simp at hi
        bitIdxBound := show (s.bitIdx + 1).toNat ≤ nBits from hs.trans_le hb
        shiftClear := fun k hk => shiftClear_setFrameBit hb b h.shiftClear hk
        resetHeld := by simp [hr] } hr
  · rw [e]
    have hlt : (s.bitIdx + 1).toNat < nBits := lt_of_le_of_ne (hs.trans_le hb) hne
    exact { h with
      pads := fun q => by
        rw [State.padOf, if_neg (by simp [hp])]
        exact Prod.ext_iff.2 (h.pad_released (by simp))
      runningStatus := fun _ => hst
      counters := by
        simp only [State.counterInRange, startBit_phase, hp]
        exact ⟨(by decide : (0#16).toNat < tCeil), hlt⟩
      mtBound := Nat.zero_le _
      pwBound := Nat.zero_le _
      bitIdxBound := hlt.le
      notMeasuring := fun hi => by simp [hp] at hi
      pulseSeen := fun _ hw => by cases hw
      shiftClear := fun k hk => shiftClear_setFrameBit hb b h.shiftClear hk
      resetHeld := by simp [hr] }

theorem inv_bitsTick {s : State} (h : s.Inv) (hr : s.inReset = false) (hp : s.phase = .bits) (l : Level) :
    (bitsTick l s).Inv := by
  obtain ⟨hmt, hb⟩ : s.mt.toNat < tCeil ∧ s.bitIdx.toNat < nBits := by
    simpa [State.counterInRange, hp] using h.counters
  have hs := counter_succ hmt (by decide)
  have hst := h.runningStatus (by simp [hp])
  have stopped {p : BitVec 16} (m : MSub) (hpw : p.toNat ≤ s.mt.toNat + 1) :
      ({ s with phase := .idle, mt := s.mt + 1, pw := p, msub := m } : State).Inv :=
    h.stop hr (by simp [hp]) m h.ctr_le (by omega) (by omega)
  obtain ⟨m, p, hm, hne, e⟩ | ⟨m, p, hm, -, e⟩ | ⟨-, -, e⟩ := bitsTick_cases l s
  · rw [e]
    exact { h with
      counters := by
        simp only [State.counterInRange, hp]
        exact ⟨by omega, hb⟩
      mtBound := show (s.mt + 1).toNat ≤ tCeil by omega
      pwBound := hs ▸ hm.pw_le h.pwBound hmt
      notMeasuring := fun hi => by simp [hp] at hi
      pulseSeen := fun _ hw => by
        obtain rfl : m = .width := hw
        exact hm.pulseSeen h.pwBound hmt
      resetHeld := by simp [hr] }
  · rw [e]
    exact inv_endBit (s := { s with mt := s.mt + 1, pw := p, msub := m })
      (stopped m (hm.pw_le h.pwBound hmt)) hr hp hst hb false
  · rw [e]
    exact inv_endBit (s := { s with mt := s.mt + 1 })
      (stopped s.msub (Nat.le_succ_of_le h.pwBound)) hr hp hst hb _

theorem inv_tick {s : State} (h : s.Inv) (hr : s.inReset = false) (lv : Levels) : (tick lv s).Inv := by
  rw [tick_eq]
  have hu := h.setLine hr (s.sample lv s.curPin)
  unfold phaseTick
  split
  · exact hu
  · next hp => exact inv_holdTick hu hr hp
  · next hp => exact inv_relTick hu hr hp
  · next hp => exact inv_wlowTick hu hr _ hp
  · next hp => exact inv_whighTick hu hr _ hp
  · next hp => exact inv_bitsTick hu hr hp _

/-! ## The step -/

theorem BlockStep.keeps_inv {inp : Input} {u t : State} (hb : BlockStep inp u t) (h : u.Inv) : t.Inv := by
  cases hb with
  | replied => exact h
  | heldTick => exact h
  | rejected v _ hr => exact h.setFlags hr h.runningStatus _ _ _
  | accepted v i _ hr hp => exact h.acceptedEffect hr hp i
  | illegal v _ hr hp => exact (h.clearStatus hr).signalDone hr hp _
  | intEn v _ hr => exact h.setFlags hr h.runningStatus _ _ _
  | intPend v _ hr => exact h.setFlags hr h.runningStatus _ _ _
  | ticked lv _ hr => exact inv_tick h hr lv
  | resetOn => exact inv_resetValues h.legal _ _ _ _
  | resetOff => exact h.releaseReset

theorem acceptedEffect_params (i : Instr) (s : State) : (acceptedEffect i s).params = s.params := by
  obtain ⟨e, he⟩ | ⟨imm, -, he⟩ | ⟨imm, -, he⟩ | ⟨op, pin, var, -, -, he⟩ := acceptedEffect_cases i s
  all_goals
    rw [he]
    rfl

/-- No step writes the parameters (log 1). -/
theorem BlockStep.params_eq {inp : Input} {u t : State} (hb : BlockStep inp u t) : t.params = u.params := by
  cases hb with
  | accepted v i => exact acceptedEffect_params i u.clearStatus
  | ticked lv =>
    obtain ⟨-, -, -, hparams, -⟩ := tick_frame lv u
    exact hparams
  | replied | heldTick | rejected | illegal | intEn | intPend | resetOn | resetOff => rfl

/-- Settles O6: the step's input is taken without touching the block, and each move of the block keeps the invariant. -/
theorem stepKeepsInvariant : Obligations.StepKeepsInvariant := by
  unfold Obligations.StepKeepsInvariant
  intro s t h hstep
  obtain ⟨-, i, d, r, hb⟩ := step_cases hstep
  exact ⟨hb.keeps_inv (h.setModel i d r), hb.params_eq⟩

/-- Settles O5: the parameters' defaults are legal. -/
theorem resetMeetsInvariant : Obligations.ResetMeetsInvariant :=
  inv_resetValues (p := Params.default) (by decide) false [] 0 none

end Sys2Proof.Machine

/-! PROOF. The register window at an input lined up: what a read of an offset answers and which writes are ignored
(10_state.md R31 to R39, 20_memory.md R45, R51, R52). -/

namespace Sys2Proof.Machine

/-! ## Reads and writes of an offset -/

/-- No register shows the inputs lined up. -/
theorem readReg_setInputs (s : State) (rest : List Input) (r : Reg) :
    State.readReg { s with inputs := rest } r = s.readReg r := by
  cases r <;> rfl

section access

variable {s : State} {rest : List Input} {off : Nat} (hlt : off < 64) (halign : off % 4 = 0)

include hlt halign

/-- An aligned word access in the window is done (R45). -/
theorem hostAccess_of_aligned {a : HostAccess} (ha : a.addr = s.params.regBase + off) (hsize : a.size = 4) :
    hostAccess a s = accessReg a (Reg.ofOffset off) s := by
  simp [hostAccess, ha, windowOffset_base s.params hlt, accessAccepted, hsize, halign]

/-- A read answers the register's value and changes nothing else (R45, R51). -/
theorem step_of_read (hl : s.params.legal = true)
    (hi : s.inputs = .host (.read (s.params.regBase + off) 4) :: rest) :
    step s = .next
      { s with inputs := rest, reply := some (.data (s.readReg (Reg.ofOffset off)).lanes) } := by
  rw [step_of_input hl hi, ← readReg_setInputs s rest]
  exact hostAccess_of_aligned hlt halign rfl rfl

/-- A write does what its register does with the word (R45, R48). -/
theorem hostAccess_write (v : Word) :
    hostAccess (.write (s.params.regBase + off) v.lanes) s =
      writeReg (Reg.ofOffset off) v { s with reply := some .written } := by
  rw [hostAccess_of_aligned hlt halign rfl rfl, accessReg, ofLanes_lanes]

theorem step_of_write (hl : s.params.legal = true) {v : Word}
    (hi : s.inputs = .host (.write (s.params.regBase + off) v.lanes) :: rest) :
    step s = writeReg (Reg.ofOffset off) v { s with inputs := rest, reply := some .written } := by
  rw [step_of_input hl hi]
  exact hostAccess_write (s := { s with inputs := rest }) hlt halign v

/-- A write to any other offset than those of CMD, INT_EN and INT_PEND is ignored (R52). -/
theorem step_of_ignoredWrite (hl : s.params.legal = true) (h0 : off ≠ 0) (h8 : off ≠ 8) (h12 : off ≠ 12)
    {v : Word} (hi : s.inputs = .host (.write (s.params.regBase + off) v.lanes) :: rest) :
    step s = .next { s with inputs := rest, reply := some .written } := by
  rw [step_of_write hlt halign hl hi]
  unfold writeReg
  split
  · rfl
  · split
    · next hreg => exact absurd (ofOffset_eq_cmd.1 hreg) h0
    · next hreg => exact absurd (ofOffset_eq_intEn.1 hreg) h8
    · next hreg => exact absurd (ofOffset_eq_intPend.1 hreg) h12
    all_goals rfl

end access

section writes

variable {s : State} (hr : s.inReset = false) (v : Word)

include hr

theorem writeReg_cmd : writeReg .cmd v s = writeCmd v s := if_neg (by simp [hr])

theorem writeReg_intEn : writeReg .intEn v s = .next (s.writeIntEn v) := if_neg (by simp [hr])

theorem writeReg_intPend : writeReg .intPend v s = .next (s.writeIntPend v) := if_neg (by simp [hr])

end writes

/-! ## The STATUS word -/

/-- The fields of one bit, and the reserved bits between fields (R33). -/
theorem statusWord_bits (s : State) :
    s.statusWord.getLsbD 0 = s.busy ∧ s.statusWord.getLsbD 1 = s.done ∧ s.statusWord.getLsbD 2 = s.rej ∧
    s.statusWord.getLsbD 3 = s.crit ∧ s.statusWord.getLsbD 7 = (levelBit s.line).getLsbD 0 ∧
    s.statusWord.getLsbD 8 = s.tdiv ∧ s.statusWord.getLsbD 9 = s.hdiv ∧
    s.statusWord.getLsbD 10 = s.curVar.bit.getLsbD 0 ∧ s.statusWord.getLsbD 11 = false ∧
    s.statusWord.getLsbD 15 = false := by
  simp only [State.statusWord, BitVec.getLsbD_append]
  simp

/-- The fields of several bits, and the reserved bits above them (R33). -/
theorem statusWord_fields (s : State) :
    s.statusWord.extractLsb' 4 3 = s.err.code ∧ s.statusWord.extractLsb' 12 3 = s.phase.code ∧
    s.statusWord.extractLsb' 16 6 = s.bitIdx ∧ s.statusWord.extractLsb' 22 4 = s.curPin ∧
    s.statusWord.extractLsb' 26 6 = 0 := by
  simp (disch := decide) only [State.statusWord, BitVec.extractLsb'_append_eq_of_le]
  exact ⟨BitVec.extractLsb'_append_eq_right, BitVec.extractLsb'_append_eq_right,
    BitVec.extractLsb'_append_eq_right, BitVec.extractLsb'_append_eq_right, rfl⟩

theorem levelBit_eq_one {l : Level} : (levelBit l).getLsbD 0 = true ↔ l = .high := by
  cases l <;> decide

theorem variantBit_eq_one {v : Variant} : v.bit.getLsbD 0 = true ↔ v = .fine := by
  cases v <;> decide

/-- CRIT is asserted from the release of the line to the last bit (R18). -/
theorem crit_iff {s : State} : s.crit = true ↔
    s.phase = .rel ∨ s.phase = .wlow ∨ s.phase = .whigh ∨ s.phase = .bits := by
  unfold State.crit
  cases s.phase <;> decide

/-- Settles O15: the word read is STATUS's, taken apart field by field. -/
theorem statusReadsItsFields : Obligations.StatusReadsItsFields := by
  unfold Obligations.StatusReadsItsFields
  intro s rest hl
  refine ⟨fun hi => ⟨s.statusWord, step_of_read (by decide) (by decide) hl hi, ?_⟩,
    fun v hi => step_of_ignoredWrite (by decide) (by decide) hl (by decide) (by decide) (by decide) hi⟩
  obtain ⟨h0, h1, h2, h3, h7, h8, h9, h10, h11, h15⟩ := statusWord_bits s
  obtain ⟨herr, hphase, hbitIdx, hpin, htop⟩ := statusWord_fields s
  rw [h0, h3, h7, h10, herr, hphase]
  refine ⟨busy_iff, h1, h2, crit_iff, ?_, levelBit_eq_one, h8, h9, variantBit_eq_one, h11, ?_, h15,
    hbitIdx, hpin, htop⟩
  · cases s.err <;> rfl
  · cases s.phase <;> rfl

/-! ## The other registers -/

/-- Where a result register is, and what it reads as (R36 to R38). -/
theorem readReg_resultRegister {s : State} {off : Nat} {w : Word}
    (hmem : (off, w) ∈ [(0x10, 0#16 ++ s.rawT), (0x14, 0#16 ++ s.rawH), (0x18, s.sclT), (0x1C, s.sclH),
      (0x20, s.fltT), (0x24, s.fltH)]) :
    0x10 ≤ off ∧ off < 64 ∧ off % 4 = 0 ∧ s.readReg (Reg.ofOffset off) = w := by
  have extended (r : Half) : r.zeroExtend 32 = 0#16 ++ r := BitVec.setWidth_eq_append (by decide)
  simp only [List.mem_cons, Prod.mk.injEq, List.not_mem_nil, or_false] at hmem
  obtain ⟨rfl, rfl⟩ | ⟨rfl, rfl⟩ | ⟨rfl, rfl⟩ | ⟨rfl, rfl⟩ | ⟨rfl, rfl⟩ | ⟨rfl, rfl⟩ := hmem
  · exact ⟨by decide, by decide, by decide, extended s.rawT⟩
  · exact ⟨by decide, by decide, by decide, extended s.rawH⟩
  all_goals exact ⟨by decide, by decide, by decide, rfl⟩

/-- Settles O16, the six registers being read-only and in the window. -/
theorem resultRegistersReadAndIgnoreWrites : Obligations.ResultRegistersReadAndIgnoreWrites := by
  unfold Obligations.ResultRegistersReadAndIgnoreWrites
  intro s rest off w hl hmem
  obtain ⟨hlo, hlt, halign, rfl⟩ := readReg_resultRegister hmem
  exact ⟨step_of_read hlt halign hl,
    fun v => step_of_ignoredWrite hlt halign hl (by omega) (by omega) (by omega)⟩

/-- CMD and every offset without a register read as 0 (R32, R39). -/
theorem readReg_of_cmd_or_reserved (s : State) {off : Nat} (hoff : off = 0 ∨ 0x28 ≤ off) :
    s.readReg (Reg.ofOffset off) = 0 := by
  obtain rfl | hoff := hoff
  · rfl
  · have hres : Reg.ofOffset off = .reserved := by
      unfold Reg.ofOffset
      repeat rw [if_neg (by omega)]
    rw [hres]
    rfl

/-- Settles O17: these offsets show no element of the state, and only CMD's takes a write. -/
theorem cmdAndReservedOffsetsReadZero : Obligations.CmdAndReservedOffsetsReadZero := by
  unfold Obligations.CmdAndReservedOffsetsReadZero
  intro s rest off hl hoff
  have hlt : off < 64 := by omega
  have halign : off % 4 = 0 := by omega
  refine ⟨fun hi => ?_, fun v h0 =>
    step_of_ignoredWrite hlt halign hl h0 (by omega) (by omega)⟩
  rw [step_of_read hlt halign hl hi, readReg_of_cmd_or_reserved s (by omega)]
  rfl

/-- The lanes of a register of one bit (R34, R35, R48). -/
theorem lanes_zeroExtend_ofBool (b : Bool) :
    Word.lanes ((BitVec.ofBool b).zeroExtend 32) = if b then [1, 0, 0, 0] else [0, 0, 0, 0] := by
  cases b <;> decide

/-- irq is the pending bit under its enable (R30, R144). -/
theorem irq_iff {s : State} : s.irq = true ↔ s.doneIE = true ∧ s.doneIP = true := Bool.and_eq_true_iff

/-- Settles O18. A read shows DONE_IE extended with zeros, and a write goes to INT_EN. -/
theorem intEnHoldsDoneIE : Obligations.IntEnHoldsDoneIE := by
  unfold Obligations.IntEnHoldsDoneIE
  intro s rest hl
  constructor
  · intro hi
    rw [step_of_read (off := 8) (by decide) (by decide) hl hi, ← lanes_zeroExtend_ofBool]
    rfl
  · intro v hr hi
    refine ⟨_, ?_, rfl, irq_iff⟩
    rw [step_of_write (off := 8) (by decide) (by decide) hl hi]
    exact writeReg_intEn (s := { s with inputs := rest, reply := some .written }) hr v

/-- Settles O19. A read shows DONE_IP extended with zeros, and a write goes to INT_PEND. -/
theorem intPendHoldsDoneIP : Obligations.IntPendHoldsDoneIP := by
  unfold Obligations.IntPendHoldsDoneIP
  intro s rest hl
  constructor
  · intro hi
    rw [step_of_read (off := 12) (by decide) (by decide) hl hi, ← lanes_zeroExtend_ofBool]
    rfl
  · intro v hr hi
    have pending : (s.doneIP && !v.getLsbD 0) = if v.getLsbD 0 then false else s.doneIP := by
      cases v.getLsbD 0 <;> simp
    refine ⟨_, ?_, rfl, ?_⟩
    · rw [step_of_write (off := 12) (by decide) (by decide) hl hi, ← pending]
      exact writeReg_intPend (s := { s with inputs := rest, reply := some .written }) hr v
    · rw [irq_iff]
      cases v.getLsbD 0 <;> simp

end Sys2Proof.Machine

/-! PROOF. When the elements of the state change: the reset table, LINE at every tick, the latched operands and the
interrupt bits (10_state.md R21, R27, R29, R42). Each is read off the cases of a step and of a tick. -/

namespace Sys2Proof.Machine

/-! ## The reset table -/

/-- What R42 says of the block: the reset values in all but the parameters, the reset input and the model's own
fields. -/
theorem resetState_or_assertReset {t : State} (ht : t = State.reset ∨
      ∃ (s : State) (rest : List Input), s.inputs = .resetLine true :: rest ∧ step s = .next t) :
    ∃ b p i d r, t = { State.reset with inReset := b, params := p, inputs := i, draws := d, reply := r } := by
  obtain rfl | ⟨s, rest, hi, hstep⟩ := ht
  · exact ⟨false, Params.default, [], 0, none, rfl⟩
  · obtain ⟨hl, -⟩ := step_cases hstep
    rw [step_of_input hl hi] at hstep
    exact ⟨true, s.params, rest, s.draws, s.reply, (Host.Outcome.next.inj hstep).symm⟩

/-- Settles O4: both states have the reset values in every element of the table. -/
theorem resetStateIsTheResetTable : Obligations.ResetStateIsTheResetTable := by
  unfold Obligations.ResetStateIsTheResetTable
  intro t ht
  obtain ⟨b, p, i, d, r, rfl⟩ := resetState_or_assertReset ht
  refine ⟨rfl, rfl, rfl, rfl, rfl, rfl, rfl, rfl, rfl, rfl, rfl, rfl, rfl, rfl, rfl, rfl, rfl, rfl, ?_, rfl, rfl,
    rfl, rfl, rfl, rfl⟩
  exact fun q => ⟨pinModeAt_reset q, pinLvlAt_reset q⟩

/-! ## LINE -/

theorem finish_line (s : State) : (finish s).line = s.line := by
  obtain ⟨-, e⟩ | ⟨-, e⟩ := finish_cases s
  · obtain ⟨-, -, -, -, -, -, -, -, -, -, -, -, hline, -⟩ := completeRead_ends (Frame.ofShift s.shift) s
    rw [e, hline]
  · rw [e, fail_line]

theorem endBit_line (b : Bool) (s : State) : (endBit b s).line = s.line := by
  obtain ⟨-, e⟩ | ⟨-, e⟩ := endBit_cases b s
  · rw [e, finish_line]
  · rw [e, startBit_line]

theorem bitsTick_line (l : Level) (s : State) : (bitsTick l s).line = s.line := by
  obtain ⟨m, p, -, -, e⟩ | ⟨m, p, -, -, e⟩ | ⟨-, -, e⟩ := bitsTick_cases l s
  · rw [e]
  · rw [e, endBit_line]
  · rw [e, endBit_line]

/-- No rule of the read sequence writes LINE (R27). -/
theorem phaseTick_line (l : Level) (s : State) : (phaseTick l s).line = s.line := by
  unfold phaseTick
  split
  · rfl
  · unfold holdTick
    dsimp only
    split <;> rfl
  · unfold relTick
    dsimp only
    split <;> rfl
  · unfold wlowTick
    cases l with
    | low => rfl
    | high =>
      dsimp only
      split <;> rfl
  · unfold whighTick
    cases l with
    | high => rfl
    | low =>
      dsimp only
      split <;> rfl
  · exact bitsTick_line l s

/-- Settles O30: a tick takes its one sample before the phase's rule, which leaves LINE alone. -/
theorem lineHoldsSampleOfCurrentPin : Obligations.LineHoldsSampleOfCurrentPin := by
  unfold Obligations.LineHoldsSampleOfCurrentPin
  intro s lv
  rw [tick_eq, phaseTick_line]
  simp only [State.sample, State.drivenLow, decide_eq_true_eq]

/-! ## The latched operands -/

/-- Only an accepted read and an asserted reset write CUR_PIN, CUR_VAR and CUR_OP (R21). -/
theorem BlockStep.latched {inp : Input} {u t : State} (hb : BlockStep inp u t) :
    SameLatched u t ∨ (u.phase = .idle ∧ t.phase = .hold) ∨ inp = .resetLine true := by
  cases hb with
  | accepted v i _ _ hp =>
    obtain ⟨e, he⟩ | ⟨imm, -, he⟩ | ⟨imm, -, he⟩ | ⟨op, pin, var, -, -, he⟩ :=
      acceptedEffect_cases i u.clearStatus
    · exact .inl (he ▸ ⟨rfl, rfl, rfl⟩)
    · exact .inl (he ▸ ⟨rfl, rfl, rfl⟩)
    · exact .inl (he ▸ ⟨rfl, rfl, rfl⟩)
    · exact .inr (.inl ⟨hp, he ▸ rfl⟩)
  | ticked lv =>
    obtain ⟨hlatched, -⟩ := tick_frame lv u
    exact .inl hlatched
  | resetOn hinp => exact .inr (.inr hinp)
  | replied | heldTick | rejected | illegal | intEn | intPend | resetOff => exact .inl ⟨rfl, rfl, rfl⟩

/-- A requested read that starts latches its own operands (R81). -/
theorem requestRead_latches {op : ReadOp} {pin : PinNo} {var : Variant} {s : State} (hp : s.phase ≠ .hold)
    (ht : (s.requestRead op pin var).phase = .hold) :
    (s.requestRead op pin var).curPin = pin ∧ (s.requestRead op pin var).curVar = var ∧
    (s.requestRead op pin var).curOp = op := by
  obtain ⟨-, e⟩ | ⟨-, e⟩ := requestRead_cases op pin var s
  · rw [e]
    exact ⟨rfl, rfl, rfl⟩
  · rw [e] at ht
    exact absurd ht hp

/-- Settles O53: of the moves of a step only an accepted read and reset write the three, and a read that starts
latches its own. -/
theorem latchedOperandsHold : Obligations.LatchedOperandsHold := by
  unfold Obligations.LatchedOperandsHold
  constructor
  · intro s t hstep hne
    obtain ⟨-, i, d, r, hb⟩ := step_cases hstep
    exact hb.latched.resolve_left hne
  · intro s t pin var hp ht
    have hidle : s.clearStatus.phase ≠ .hold := by simp [hp]
    refine ⟨fun he => ?_, fun he => ?_⟩
    all_goals
      obtain ⟨hbusy, -⟩ | ⟨-, rfl⟩ := exec_cases he
      · exact absurd hp hbusy
      · exact requestRead_latches hidle ht

/-! ## The interrupt bits -/

/-- An accepted command leaves DONE_IE; it completes at once and sets DONE and DONE_IP, or starts a read and leaves
DONE_IP (R127, R129, R130). -/
theorem acceptedEffect_interrupt (i : Instr) (s : State) :
    (acceptedEffect i s).doneIE = s.doneIE ∧
    (((acceptedEffect i s).done = true ∧ (acceptedEffect i s).doneIP = true) ∨
      ((acceptedEffect i s).phase = .hold ∧ (acceptedEffect i s).doneIP = s.doneIP)) := by
  obtain ⟨e, he⟩ | ⟨imm, -, he⟩ | ⟨imm, -, he⟩ | ⟨op, pin, var, -, -, he⟩ := acceptedEffect_cases i s
  · exact he ▸ ⟨rfl, .inl ⟨rfl, rfl⟩⟩
  · exact he ▸ ⟨rfl, .inl ⟨rfl, rfl⟩⟩
  · exact he ▸ ⟨rfl, .inl ⟨rfl, rfl⟩⟩
  · exact he ▸ ⟨rfl, .inr ⟨rfl, rfl⟩⟩

/-- A tick leaves DONE_IP, or sets it (R29). -/
theorem TickMove.doneIP {s t : State} (h : TickMove s t) : t.doneIP = s.doneIP ∨ t.doneIP = true := by
  cases h with
  | stays _ hst =>
    obtain ⟨-, -, hip⟩ := hst
    exact .inl hip
  | releases _ _ hst =>
    obtain ⟨-, -, hip⟩ := hst
    exact .inl hip
  | advances _ hst =>
    obtain ⟨-, -, hip⟩ := hst
    exact .inl hip
  | fails _ _ _ hip => exact .inr hip
  | completes _ _ _ _ _ _ hip => exact .inr hip

/-- A tick that ends a read sets DONE_IP (R101, R102). -/
theorem TickMove.doneIP_of_ends {s t : State} (h : TickMove s t) (hs : s.phase ≠ .idle) (ht : t.phase = .idle) :
    t.doneIP = true := by
  cases h with
  | stays hp => exact absurd (hp.symm.trans ht) hs
  | releases _ hp => simp [hp] at ht
  | advances hp => rcases hp with ⟨-, hp⟩ | ⟨-, hp⟩ | ⟨-, hp⟩ <;> simp [hp] at ht
  | fails _ _ _ hip => exact hip
  | completes _ _ _ _ _ _ hip => exact hip

section step

variable {inp : Input} {u t : State} (hb : BlockStep inp u t)

include hb

/-- A step that ends a running read is its last tick, which sets DONE_IP, or reset. -/
theorem BlockStep.doneIP_of_ends (hu : u.phase ≠ .idle) (ht : t.phase = .idle) :
    inp = .resetLine true ∨ t.doneIP = true := by
  cases hb with
  | accepted v i _ _ hp => exact absurd hp hu
  | illegal v _ _ hp => exact absurd hp hu
  | ticked lv => exact .inr ((tick_move lv u).doneIP_of_ends hu ht)
  | resetOn hinp => exact .inl hinp
  | replied | heldTick | rejected | intEn | intPend | resetOff => exact absurd ht hu

/-- DONE_IP is cleared by its own write and by reset alone (R35, R133). -/
theorem BlockStep.doneIP_cleared (hu : u.doneIP = true) (ht : t.doneIP = false) :
    inp = .resetLine true ∨
    ∃ v : Word, inp = .host (.write (u.params.regBase + 0x0C) v.lanes) ∧ v.getLsbD 0 = true := by
  cases hb with
  | accepted v i =>
    obtain ⟨-, ⟨-, hip⟩ | ⟨-, hip⟩⟩ := acceptedEffect_interrupt i u.clearStatus
    · simp [hip] at ht
    · simp [hip, hu] at ht
  | illegal v => cases ht
  | intPend v hinp => exact .inr ⟨v, hinp, by simpa [hu] using ht⟩
  | ticked lv =>
    obtain hip | hip := (tick_move lv u).doneIP
    · simp [hip, hu] at ht
    · simp [hip] at ht
  | resetOn hinp => exact .inl hinp
  | replied | heldTick | rejected | intEn | resetOff => exact absurd (hu.symm.trans ht) (by decide)

/-- DONE_IE is changed by its own write and by reset alone (R34, R132). -/
theorem BlockStep.doneIE_changed (hne : t.doneIE ≠ u.doneIE) :
    inp = .resetLine true ∨ ∃ v : Word, inp = .host (.write (u.params.regBase + 0x08) v.lanes) := by
  cases hb with
  | accepted v i =>
    obtain ⟨hie, -⟩ := acceptedEffect_interrupt i u.clearStatus
    exact absurd hie hne
  | intEn v hinp => exact .inr ⟨v, hinp⟩
  | ticked lv =>
    obtain ⟨-, -, hie, -⟩ := tick_frame lv u
    exact absurd hie hne
  | resetOn hinp => exact .inl hinp
  | replied | heldTick | rejected | illegal | intPend | resetOff => exact absurd rfl hne

end step

/-- A CMD write to an idle block that leaves it idle has completed (R129, R130). -/
theorem cmdWrite_completes {s t : State} {v : Word} (hstep : step s = .next t)
    (hin : (nextInput s).1 = .host (.write s.params.regBase v.lanes)) (hr : s.inReset = false)
    (hs : s.phase = .idle) (ht : t.phase = .idle) : t.done = true ∧ t.doneIP = true := by
  obtain ⟨hl, -⟩ := step_cases hstep
  obtain ⟨i, d, hn⟩ := nextInput_state s
  rw [step_of_legal hl, hin, hn] at hstep
  have haccess := hostAccess_write (s := { s with inputs := i, draws := d }) (off := 0) (by decide) rfl v
  have hw := (writeReg_cmd (s := { s with inputs := i, draws := d, reply := some .written }) hr v).symm.trans
    (haccess.symm.trans hstep)
  obtain ⟨hbusy, -⟩ | ⟨-, j, -, rfl⟩ | ⟨-, -, rfl⟩ := writeCmd_next hw
  · exact absurd hs hbusy
  · obtain ⟨-, hdone | ⟨hhold, -⟩⟩ := acceptedEffect_interrupt j
      (State.clearStatus { s with inputs := i, draws := d, reply := some .written })
    · exact hdone
    · simp [hhold] at ht
  · exact ⟨rfl, rfl⟩

/-- Settles O54, each clause on a change from the moves of a step, the one on a CMD write from the write itself. -/
theorem interruptBitsChangeOnlyByTheirWrites : Obligations.InterruptBitsChangeOnlyByTheirWrites := by
  unfold Obligations.InterruptBitsChangeOnlyByTheirWrites
  intro s t hstep
  obtain ⟨-, i, d, r, hb⟩ := step_cases hstep
  exact ⟨irq_iff, hb.doneIP_of_ends, fun v => cmdWrite_completes hstep, hb.doneIP_cleared, hb.doneIE_changed⟩

end Sys2Proof.Machine

/-! PROOF. What an input does to the block: the input a step takes, the accesses the bus refuses, and a host access
while a read runs (20_memory.md R44, R46, R51 to R55, R62). -/

namespace Sys2Proof.Machine

/-! ## The input a step takes -/

/-- Out of reset a tick runs the tick rule (R82, R154). -/
theorem tickInput_of_running {s : State} (hr : s.inReset = false) (lv : Levels) : tickInput lv s = tick lv s :=
  if_neg (by simp [hr])

/-- With nothing lined up a step takes the free input and counts it (log 2). -/
theorem step_of_no_input {s : State} (hl : s.params.legal = true) (hi : s.inputs = []) :
    step s = applyInput (Config.freeInput s.draws) { s with draws := s.draws + 1 } := by
  rw [step_of_legal hl, nextInput, hi]

/-- Settles O10: the first two clauses are what the input lined up does. -/
theorem stepTakesOldestInput : Obligations.StepTakesOldestInput := by
  unfold Obligations.StepTakesOldestInput
  intro s hl
  refine ⟨fun lv rest hr hi => ?_, fun rest hi => step_of_input hl hi, step_of_no_input hl⟩
  rw [step_of_input hl hi, applyInput, tickInput_of_running (s := { s with inputs := rest }) hr]

/-! ## Accesses the bus refuses -/

theorem windowOffset_eq_none {p : Params} {addr : Nat} :
    windowOffset p addr = none ↔ addr < p.regBase ∨ p.regBase + 64 ≤ addr := by
  unfold windowOffset
  split
  · simp only [reduceCtorEq, false_iff]; omega
  · simp only [true_iff]; omega

/-- An access outside the window stops the model (R44, log 5). -/
theorem hostAccess_of_outside {a : HostAccess} {s : State}
    (h : a.addr < s.params.regBase ∨ s.params.regBase + 64 ≤ a.addr) :
    hostAccess a s = .fault (.outsideWindow a.addr) := by
  simp only [hostAccess, windowOffset_eq_none.2 h]

/-- Settles O14: the fault is the bus's answer to the access, which the step takes first. -/
theorem accessOutsideWindowStops : Obligations.AccessOutsideWindowStops := by
  unfold Obligations.AccessOutsideWindowStops
  intro s rest a hl hi hout
  rw [step_of_input hl hi]
  exact hostAccess_of_outside (s := { s with inputs := rest }) hout

/-- An access in the window of a wrong size or alignment gets the error response and does nothing else (R46). -/
theorem hostAccess_of_malformed {a : HostAccess} {s : State} {off : Nat} (hlt : off < 64)
    (ha : a.addr = s.params.regBase + off) (hbad : a.size ≠ 4 ∨ off % 4 ≠ 0) :
    hostAccess a s = .next { s with reply := some .busError } := by
  have hrefused : accessAccepted off a.size = false := by
    simpa [accessAccepted, imp_iff_not_or] using hbad
  simp [hostAccess, ha, windowOffset_base s.params hlt, hrefused]

/-- Settles O13, at the offset the address has in the window. -/
theorem wrongSizeOrAlignmentGetsBusError : Obligations.WrongSizeOrAlignmentGetsBusError := by
  unfold Obligations.WrongSizeOrAlignmentGetsBusError
  intro s rest a hl hi hlo hhi hbad
  rw [step_of_input hl hi]
  exact hostAccess_of_malformed (s := { s with inputs := rest }) (off := a.addr - s.params.regBase)
    (by omega) (by dsimp only; omega) hbad

/-! ## A host access while a read runs

The access can write REJ, DONE_IE, DONE_IP and the reply only. No rule of the read sequence reads any of the four, so
two blocks that differ in them alone go through every tick side by side. -/

/-- The two blocks differ at most in what a host access writes while a read runs. -/
def DiffersInHostSide (s t : State) : Prop :=
  ∃ rej doneIE doneIP reply,
    t = { s with rej := rej, doneIE := doneIE, doneIP := doneIP, reply := reply }

namespace DiffersInHostSide

/-- Any write of the four fields. -/
theorem written {s : State} {rej doneIE doneIP : Bool} {reply : Option BusReply} : DiffersInHostSide s
    { s with rej := rej, doneIE := doneIE, doneIP := doneIP, reply := reply } :=
  ⟨rej, doneIE, doneIP, reply, rfl⟩

/-- A choice that both blocks make alike. -/
theorem ite {c : Prop} [Decidable c] {s s' t t' : State} (h : DiffersInHostSide s t)
    (h' : DiffersInHostSide s' t') : DiffersInHostSide (if c then s else s') (if c then t else t') := by
  split
  · exact h
  · exact h'

variable {s t : State} (h : DiffersInHostSide s t)

include h

/-- None of the four is part of the sequencer, a pin, a result, DONE or ERR. -/
theorem same_read : SameSequencer s t ∧ SamePins s t ∧ SameResults s t ∧ t.done = s.done ∧ t.err = s.err := by
  obtain ⟨_, _, _, _, rfl⟩ := h
  simp [SameSequencer, SameLatched, SamePins, SameResults, SameRaw, SameScaledT, SameScaledH]

/-! ### The ends of a read -/

theorem fail (e : ErrKind) : DiffersInHostSide (s.fail e) (t.fail e) := by
  obtain ⟨_, _, _, _, rfl⟩ := h
  exact written

theorem completeRead (f : Frame) : DiffersInHostSide (completeRead f s) (completeRead f t) := by
  obtain ⟨_, _, _, _, rfl⟩ := h
  unfold Machine.completeRead State.scaleResults
  cases s.curOp with
  | readRaw => exact written
  | readScaled => cases s.curVar <;> exact written

theorem finish : DiffersInHostSide (finish s) (finish t) := by
  obtain ⟨⟨-, -, -, -, -, -, hshift, -⟩, -⟩ := h.same_read
  unfold Machine.finish
  rw [hshift]
  exact ite (h.completeRead _) (h.fail _)

theorem endBit (b : Bool) : DiffersInHostSide (endBit b s) (endBit b t) := by
  obtain ⟨_, _, _, _, rfl⟩ := h
  exact ite (finish written) written

/-! ### The ticks -/

theorem holdTick : DiffersInHostSide (holdTick s) (holdTick t) := by
  obtain ⟨_, _, _, _, rfl⟩ := h
  exact ite written written

theorem relTick : DiffersInHostSide (relTick s) (relTick t) := by
  obtain ⟨_, _, _, _, rfl⟩ := h
  exact ite written written

theorem wlowTick (l : Level) : DiffersInHostSide (wlowTick l s) (wlowTick l t) := by
  obtain ⟨_, _, _, _, rfl⟩ := h
  cases l with
  | low => exact written
  | high => exact ite written written

theorem whighTick (l : Level) : DiffersInHostSide (whighTick l s) (whighTick l t) := by
  obtain ⟨_, _, _, _, rfl⟩ := h
  cases l with
  | low => exact ite written written
  | high => exact written

theorem skipTick (l : Level) : DiffersInHostSide (skipTick l s) (skipTick l t) := by
  obtain ⟨_, _, _, _, rfl⟩ := h
  cases l with
  | low => exact written
  | high => exact written

theorem riseTick (l : Level) : DiffersInHostSide (riseTick l s) (riseTick l t) := by
  obtain ⟨_, _, _, _, rfl⟩ := h
  cases l with
  | low => exact written
  | high => exact written

theorem widthTick (l : Level) :
    DiffersInHostSide (widthTick l s).1 (widthTick l t).1 ∧ (widthTick l t).2 = (widthTick l s).2 := by
  obtain ⟨_, _, _, _, rfl⟩ := h
  cases l with
  | low => exact ⟨written, rfl⟩
  | high => exact ⟨written, rfl⟩

/-- The sample moves both measurements alike, and ends both with one bit or neither. -/
theorem measureTick (l : Level) :
    DiffersInHostSide (measureTick l s).1 (measureTick l t).1 ∧ (measureTick l t).2 = (measureTick l s).2 := by
  obtain ⟨⟨-, -, -, -, hmsub, -⟩, -⟩ := h.same_read
  unfold Machine.measureTick
  rw [hmsub]
  cases s.msub with
  | skip => exact ⟨h.skipTick l, rfl⟩
  | rise => exact ⟨h.riseTick l, rfl⟩
  | width => exact h.widthTick l

theorem bitsTick (l : Level) : DiffersInHostSide (bitsTick l s) (bitsTick l t) := by
  have hcount : DiffersInHostSide { s with mt := s.mt + 1 } { t with mt := t.mt + 1 } := by
    obtain ⟨_, _, _, _, rfl⟩ := h
    exact written
  obtain ⟨hmoved, hbit⟩ := hcount.measureTick l
  unfold Machine.bitsTick
  generalize Machine.measureTick l { s with mt := s.mt + 1 } = m at *
  generalize Machine.measureTick l { t with mt := t.mt + 1 } = n at *
  obtain ⟨u, b⟩ := m
  obtain ⟨v, b'⟩ := n
  obtain rfl : b' = b := hbit
  cases b' with
  | some b => exact hmoved.endBit b
  | none =>
    have hend := hmoved.endBit false
    obtain ⟨_, _, _, _, rfl⟩ := hmoved
    exact ite hend written

theorem phaseTick (l : Level) : DiffersInHostSide (phaseTick l s) (phaseTick l t) := by
  obtain ⟨⟨hphase, -⟩, -⟩ := h.same_read
  unfold Machine.phaseTick
  rw [hphase]
  cases s.phase with
  | idle => exact h
  | hold => exact h.holdTick
  | rel => exact h.relTick
  | wlow => exact h.wlowTick l
  | whigh => exact h.whighTick l
  | bits => exact h.bitsTick l

/-- The pads decide the sample, and both blocks have the same (R26, R82). -/
theorem tick (lv : Levels) : DiffersInHostSide (tick lv s) (tick lv t) := by
  obtain ⟨_, _, _, _, rfl⟩ := h
  exact phaseTick written _

end DiffersInHostSide

/-- A host access while a read runs is answered, and may be rejected as a command or write an interrupt bit (R51,
R52, R128). -/
theorem hostAccess_differsInHostSide {a : HostAccess} {s t : State} (hp : s.phase ≠ .idle)
    (h : hostAccess a s = .next t) : DiffersInHostSide s t := by
  obtain ⟨r, rfl⟩ | ⟨-, v, off, -, ⟨-, hw⟩ | ⟨-, rfl⟩ | ⟨-, rfl⟩⟩ := hostAccess_next h
  · exact .written
  · obtain ⟨-, rfl⟩ | ⟨hidle, -⟩ | ⟨hidle, -⟩ := writeCmd_next hw
    · exact .written
    · exact absurd hidle hp
    · exact absurd hidle hp
  · exact .written
  · exact .written

/-- Settles O20: the access leaves the two blocks different in the host's side alone, and the next tick keeps them so. -/
theorem hostAccessLeavesRunningReadAlone : Obligations.HostAccessLeavesRunningReadAlone := by
  unfold Obligations.HostAccessLeavesRunningReadAlone
  intro s t a lv hp haccess
  have hdiff : DiffersInHostSide s t := hostAccess_differsInHostSide hp haccess
  exact ⟨hdiff.same_read, (hdiff.tick lv).same_read⟩

end Sys2Proof.Machine

/-! PROOF. The decoder inverts the encoder, and its rows are those of the opcode table (30_encoding.md R63 to R71, R76).
Both directions speak of the fields of the word: what an encoding, a mask of the table and the decoder say of a word is
said once each of its fields. -/

namespace Sys2Proof

/-! ## A word by its fields -/

theorem append_inj {m n : Nat} {x₁ x₂ : BitVec m} {y₁ y₂ : BitVec n} :
    x₁ ++ y₁ = x₂ ++ y₂ ↔ x₁ = x₂ ∧ y₁ = y₂ := by
  constructor
  · intro h
    have hx := congrArg (BitVec.extractLsb' n m) h
    have hy := congrArg (BitVec.extractLsb' 0 n) h
    rw [BitVec.extractLsb'_append_eq_left, BitVec.extractLsb'_append_eq_left] at hx
    rw [BitVec.extractLsb'_append_eq_right, BitVec.extractLsb'_append_eq_right] at hy
    exact ⟨hx, hy⟩
  · rintro ⟨rfl, rfl⟩
    rfl

/-- A word from what its fields and the bits between them hold: `v[31:16]`, `v[15:12]`, `v[11:8]`, `v[7:5]`, `v[4]`
and `v[3:0]` (R63). -/
def ofFields (imm : Half) (hi : BitVec 4) (pin : PinNo) (mid : BitVec 3) (var : BitVec 1) (op : BitVec 4) : Word :=
  imm ++ hi ++ pin ++ mid ++ var ++ op

theorem ofFields_inj {imm imm' : Half} {hi hi' : BitVec 4} {pin pin' : PinNo} {mid mid' : BitVec 3}
    {var var' : BitVec 1} {op op' : BitVec 4} :
    ofFields imm hi pin mid var op = ofFields imm' hi' pin' mid' var' op' ↔
      imm = imm' ∧ hi = hi' ∧ pin = pin' ∧ mid = mid' ∧ var = var' ∧ op = op' := by
  rw [ofFields, ofFields, append_inj, append_inj, append_inj, append_inj, append_inj]
  simp only [and_assoc]

theorem ofFields_fields (v : Word) :
    ofFields (immField v) (v.extractLsb' 12 4) (pinField v) (v.extractLsb' 5 3) (varField v) (opField v) = v := by
  unfold ofFields immField pinField varField opField
  rw [BitVec.extractLsb'_append_extractLsb'_eq_extractLsb' (by rfl),
    BitVec.extractLsb'_append_extractLsb'_eq_extractLsb' (by rfl),
    BitVec.extractLsb'_append_extractLsb'_eq_extractLsb' (by rfl),
    BitVec.extractLsb'_append_extractLsb'_eq_extractLsb' (by rfl),
    BitVec.extractLsb'_append_extractLsb'_eq_extractLsb' (by rfl)]
  exact BitVec.extractLsb'_eq_self

theorem eq_ofFields_iff {v : Word} {imm : Half} {hi : BitVec 4} {pin : PinNo} {mid : BitVec 3} {var : BitVec 1}
    {op : BitVec 4} : v = ofFields imm hi pin mid var op ↔
      immField v = imm ∧ v.extractLsb' 12 4 = hi ∧ pinField v = pin ∧ v.extractLsb' 5 3 = mid ∧
      varField v = var ∧ opField v = op := by
  rw [← ofFields_inj, ofFields_fields]

theorem readReservedZero_iff {v : Word} :
    readReservedZero v = true ↔ v.extractLsb' 5 3 = 0#3 ∧ v.extractLsb' 12 4 = 0#4 ∧ immField v = 0#16 := by
  simp [readReservedZero, and_assoc]

theorem convReservedZero_iff {v : Word} : convReservedZero v = true ↔
    v.extractLsb' 12 4 = 0#4 ∧ pinField v = 0#4 ∧ v.extractLsb' 5 3 = 0#3 ∧ varField v = 0#1 := by
  have hfields : v.extractLsb' 4 12 = v.extractLsb' 12 4 ++ pinField v ++ v.extractLsb' 5 3 ++ varField v := by
    unfold pinField varField
    rw [BitVec.extractLsb'_append_extractLsb'_eq_extractLsb' (by rfl),
      BitVec.extractLsb'_append_extractLsb'_eq_extractLsb' (by rfl),
      BitVec.extractLsb'_append_extractLsb'_eq_extractLsb' (by rfl)]
  have hzero : (0 : BitVec 12) = 0#4 ++ 0#4 ++ 0#3 ++ 0#1 := by decide
  rw [convReservedZero, beq_iff_eq, hfields, hzero, append_inj, append_inj, append_inj, and_assoc, and_assoc]

/-! ## The encodings -/

theorem Variant.ofBit_eq_iff {b : BitVec 1} {var : Variant} : Variant.ofBit b = var ↔ b = var.bit := by
  revert b
  cases var <;> decide

/-- The words that encode a read (R76). -/
theorem eq_encodeRead_iff {v : Word} {op : BitVec 4} {pin : PinNo} {var : Variant} :
    v = encodeRead op pin var ↔
      opField v = op ∧ readReservedZero v = true ∧ pinField v = pin ∧ Variant.ofBit (varField v) = var := by
  have hfields : encodeRead op pin var = ofFields 0#16 0#4 pin 0#3 var.bit op := rfl
  rw [hfields, eq_ofFields_iff, readReservedZero_iff, Variant.ofBit_eq_iff]
  tauto

/-- The words that encode a conversion (R76). -/
theorem eq_encodeConv_iff {v : Word} {op : BitVec 4} {imm : Half} :
    v = encodeConv op imm ↔ opField v = op ∧ convReservedZero v = true ∧ immField v = imm := by
  have hfields : encodeConv op imm = ofFields imm 0#4 0#4 0#3 0#1 op := by
    have hzero : (0#12 : BitVec 12) = 0#4 ++ 0#4 ++ 0#3 ++ 0#1 := by decide
    rw [encodeConv, hzero, ofFields]
    simp only [BitVec.append_assoc, BitVec.cast_eq]
  rw [hfields, eq_ofFields_iff, convReservedZero_iff]
  tauto

/-! ## The masks of the opcode table -/

theorem and_ofFields {imm imm' : Half} {hi hi' : BitVec 4} {pin pin' : PinNo} {mid mid' : BitVec 3}
    {var var' : BitVec 1} {op op' : BitVec 4} :
    ofFields imm hi pin mid var op &&& ofFields imm' hi' pin' mid' var' op' =
      ofFields (imm &&& imm') (hi &&& hi') (pin &&& pin') (mid &&& mid') (var &&& var') (op &&& op') := by
  rw [ofFields, ofFields, ofFields, BitVec.and_append, BitVec.and_append, BitVec.and_append, BitVec.and_append,
    BitVec.and_append]

/-- The mask and the pattern of a read's row (R68). -/
theorem and_readMask_iff {v : Word} {op : BitVec 4} :
    v &&& 0xFFFFF0EF#32 = 0#28 ++ op ↔ opField v = op ∧ readReservedZero v = true := by
  have hmask : 0xFFFFF0EF#32 = ofFields (.allOnes 16) (.allOnes 4) 0#4 (.allOnes 3) 0#1 (.allOnes 4) := by decide
  have hpattern : 0#28 ++ op = ofFields 0#16 0#4 0#4 0#3 0#1 op := rfl
  rw [← ofFields_fields v, hmask, hpattern, and_ofFields, ofFields_inj, ofFields_fields, readReservedZero_iff]
  simp only [BitVec.and_allOnes, BitVec.and_zero]
  tauto

/-- The mask and the pattern of a conversion's row (R68). -/
theorem and_convMask_iff {v : Word} {op : BitVec 4} :
    v &&& 0x0000FFFF#32 = 0#28 ++ op ↔ opField v = op ∧ convReservedZero v = true := by
  have hmask : 0x0000FFFF#32 = ofFields 0#16 (.allOnes 4) (.allOnes 4) (.allOnes 3) (.allOnes 1) (.allOnes 4) := by
    decide
  have hpattern : 0#28 ++ op = ofFields 0#16 0#4 0#4 0#3 0#1 op := rfl
  rw [← ofFields_fields v, hmask, hpattern, and_ofFields, ofFields_inj, ofFields_fields, convReservedZero_iff]
  simp only [BitVec.and_allOnes, BitVec.and_zero]
  tauto

/-! ## The decoder -/

/-- A command's word is read as that command (R76). -/
theorem decode_of_eq_encode {v : Word} {i : Instr} (h : v = encode i) : decode v = .ok i := by
  cases i with
  | nop => rw [h]; rfl
  | readRaw pin var =>
    obtain ⟨hop, hreserved, hpin, hvar⟩ := eq_encodeRead_iff.1 h
    simp [decode, hop, hreserved, hpin, hvar]
  | readScaled pin var =>
    obtain ⟨hop, hreserved, hpin, hvar⟩ := eq_encodeRead_iff.1 h
    simp [decode, hop, hreserved, hpin, hvar]
  | unpackT imm =>
    obtain ⟨hop, hreserved, himm⟩ := eq_encodeConv_iff.1 h
    simp [decode, hop, hreserved, himm]
  | scaleH imm =>
    obtain ⟨hop, hreserved, himm⟩ := eq_encodeConv_iff.1 h
    simp [decode, hop, hreserved, himm]

/-- Only a command's own word is read as that command: the bits the selected OP does not use are 0 (R69). -/
theorem eq_encode_of_decode {v : Word} {i : Instr} (h : decode v = .ok i) : v = encode i := by
  unfold decode at h
  split at h
  · split at h
    · next hv => cases h; exact hv
    · cases h
  · next hop =>
    split at h
    · next hreserved => cases h; exact eq_encodeRead_iff.2 ⟨BitVec.eq_of_toNat_eq hop, hreserved, rfl, rfl⟩
    · cases h
  · next hop =>
    split at h
    · next hreserved => cases h; exact eq_encodeRead_iff.2 ⟨BitVec.eq_of_toNat_eq hop, hreserved, rfl, rfl⟩
    · cases h
  · next hop =>
    split at h
    · next hreserved => cases h; exact eq_encodeConv_iff.2 ⟨BitVec.eq_of_toNat_eq hop, hreserved, rfl⟩
    · cases h
  · next hop =>
    split at h
    · next hreserved => cases h; exact eq_encodeConv_iff.2 ⟨BitVec.eq_of_toNat_eq hop, hreserved, rfl⟩
    · cases h
  · cases h

theorem decode_eq_ok_iff {v : Word} {i : Instr} : decode v = .ok i ↔ v = encode i :=
  ⟨eq_encode_of_decode, decode_of_eq_encode⟩

theorem decode_encode (i : Instr) : decode (encode i) = .ok i := decode_of_eq_encode rfl

/-- Settles O1, by the fields of the word in both directions. -/
theorem decodeInvertsEncode : Obligations.DecodeInvertsEncode :=
  fun i => ⟨decode_encode i, fun _ => eq_encode_of_decode⟩

/-- `classify` accepts the words of the well-formed commands (R66, R68). -/
theorem classify_eq_ok_iff {p : Params} {v : Word} {i : Instr} :
    classify p v = .ok i ↔ v = encode i ∧ i.wellFormed p = true := by
  rw [← decode_eq_ok_iff]
  unfold classify
  cases decode v with
  | error e => simp
  | ok j =>
    by_cases hj : j.wellFormed p = true
    · simp only [hj, if_true, Except.ok.injEq]
      exact ⟨fun h => ⟨h, h ▸ hj⟩, And.left⟩
    · simp only [hj, Bool.false_eq_true, if_false, reduceCtorEq, Except.ok.injEq, false_iff]
      rintro ⟨rfl, h⟩
      exact hj h

/-- VAR is `v[4]` (R63, R65). -/
theorem ofBit_varField_iff {v : Word} {var : Variant} :
    Variant.ofBit (varField v) = var ↔ (var = .fine ↔ v.getLsbD 4 = true) := by
  have hbit : v.getLsbD 4 = (varField v).getLsbD 0 := by simp [varField]
  rw [hbit]
  generalize varField v = b
  revert b
  cases var <;> decide

/-- The words of a read, by their row of the opcode table (R68). -/
theorem eq_encodeRead_iff_row {v : Word} {op : BitVec 4} {pin : PinNo} {var : Variant} :
    v = encodeRead op pin var ↔ v &&& 0xFFFFF0EF#32 = 0#28 ++ op ∧ pin = pinField v ∧
      (var = .fine ↔ v.getLsbD 4 = true) := by
  rw [eq_encodeRead_iff, and_readMask_iff, ofBit_varField_iff, and_assoc, eq_comm (a := pin)]

/-- The words of a conversion, by their row of the opcode table (R68). -/
theorem eq_encodeConv_iff_row {v : Word} {op : BitVec 4} {imm : Half} :
    v = encodeConv op imm ↔ v &&& 0x0000FFFF#32 = 0#28 ++ op ∧ imm = immField v := by
  rw [eq_encodeConv_iff, and_convMask_iff, and_assoc, eq_comm (a := imm)]

/-- Settles O2: the words of each command by its row, and the condition on PIN of the two reads. -/
theorem classifyAgreesWithOpcodeTable : Obligations.ClassifyAgreesWithOpcodeTable := by
  unfold Obligations.ClassifyAgreesWithOpcodeTable
  intro p v
  have hread {op : BitVec 4} {pin : PinNo} {var : Variant} :
      v = encodeRead op pin var ∧ decide (pin.toNat < p.nPins) = true ↔
        v &&& 0xFFFFF0EF#32 = 0#28 ++ op ∧ pin = v.extractLsb' 8 4 ∧ (var = .fine ↔ v.getLsbD 4 = true) ∧
          pin.toNat < p.nPins := by
    rw [eq_encodeRead_iff_row, decide_eq_true_iff, and_assoc, and_assoc, pinField]
  refine ⟨?_, fun pin var => ?_, fun pin var => ?_, fun imm => ?_, fun imm => ?_⟩
  · exact classify_eq_ok_iff.trans (and_iff_left rfl)
  · exact classify_eq_ok_iff.trans hread
  · exact classify_eq_ok_iff.trans hread
  · exact classify_eq_ok_iff.trans ((and_iff_left rfl).trans eq_encodeConv_iff_row)
  · exact classify_eq_ok_iff.trans ((and_iff_left rfl).trans eq_encodeConv_iff_row)

/-- Settles O3: a word of a command is its encoding, and a rejected word is run through the decoder. -/
theorem exampleWordsDecode : Obligations.ExampleWordsDecode :=
  ⟨decode_encode .nop, decode_encode (.readRaw 0 .fine), decode_encode (.readRaw 3 .fine),
    decode_encode (.readScaled 0 .coarse), decode_encode (.readScaled 0 .fine), decode_encode (.unpackT 0x8032),
    decode_encode (.scaleH 0x01F4), rfl, rfl, rfl, rfl, rfl⟩

end Sys2Proof

/-! ## A read of a missing line -/

namespace Sys2Proof.Machine

/-- An accepted read of a missing line completes as an illegal word (R66, R69). -/
theorem requestRead_of_missing {op : ReadOp} {pin : PinNo} {var : Variant} {s : State}
    (h : s.params.nPins ≤ pin.toNat) : s.requestRead op pin var = s.illegal := by
  obtain ⟨hlt, -⟩ | ⟨-, he⟩ := requestRead_cases op pin var s
  · exact absurd hlt (Nat.not_lt.2 h)
  · exact he

/-- Settles O25: both reads request the line the same way. -/
theorem readOfMissingLineIsIllegal : Obligations.ReadOfMissingLineIsIllegal := by
  unfold Obligations.ReadOfMissingLineIsIllegal
  rintro s pin var i hi hidle hpin
  have heffect : acceptedEffect i s.clearStatus = s.clearStatus.illegal := by
    obtain rfl | rfl := hi
    · exact requestRead_of_missing hpin
    · exact requestRead_of_missing hpin
  rw [exec_eq_present, present_of_idle hidle, heffect]
  rfl

end Sys2Proof.Machine

/-! PROOF. Forty pulses on the wire assemble the frame (41_decoder.md R88 to R103). The ticks of one pulse are the end of
its measurement with its bit; a run of pulses is then one bit stored after another, and the last one ends the read. -/

namespace Sys2Proof.Machine

/-! ## The ticks of a measurement -/

/-- The moves of MSUB and PW are determined by the sample. -/
theorem SubMove.unique {l : Level} {s : State} {m m' : MSub} {p p' : BitVec 16} (h : SubMove l s m p)
    (h' : SubMove l s m' p') : m = m' ∧ p = p' := by
  cases h <;> cases h' <;> simp_all

/-- A low during a pulse is its falling edge, and no move within the measurement (R92). -/
theorem SubMove.not_edge {l : Level} {s : State} {m : MSub} {p : BitVec 16} (h : SubMove l s m p) :
    ¬ (s.msub = .width ∧ l = .low) := by
  cases h <;> simp_all

/-- A tick below the ceiling that ends no pulse (R89 to R92). -/
theorem bitsTick_of_subMove {l : Level} {s : State} {m : MSub} {p : BitVec 16} (h : SubMove l s m p)
    (hmt : (s.mt + 1).toNat ≠ tCeil) : bitsTick l s = { s with mt := s.mt + 1, msub := m, pw := p } := by
  obtain ⟨m', p', h', -, he⟩ | ⟨-, -, -, hceil, -⟩ | ⟨hw, hl, -⟩ := bitsTick_cases l s
  · obtain ⟨rfl, rfl⟩ := h.unique h'
    exact he
  · exact absurd hceil hmt
  · exact absurd ⟨hw, hl⟩ h.not_edge

/-- The tick of a pulse's falling edge, at the ceiling too (R92, R95). -/
theorem bitsTick_of_edge {s : State} (hw : s.msub = .width) :
    bitsTick .low s = endBit (bitValue s.pw) { s with mt := s.mt + 1 } := by
  obtain ⟨_, _, h, -⟩ | ⟨_, _, h, -⟩ | ⟨-, -, he⟩ := bitsTick_cases .low s
  · exact absurd ⟨hw, rfl⟩ h.not_edge
  · exact absurd ⟨hw, rfl⟩ h.not_edge
  · exact he

/-- The block with a measurement `t` ticks old, in sub-phase `m` with a pulse of `p` ticks. -/
def State.measuring (s : State) (l : Level) (m : MSub) (t p : Nat) : State :=
  { s with line := l, msub := m, mt := BitVec.ofNat 16 t, pw := BitVec.ofNat 16 p }

theorem measuring_mt_succ (s : State) (l : Level) (m : MSub) (t p : Nat) :
    (s.measuring l m t p).mt + 1 = .ofNat 16 (t + 1) := (BitVec.ofNat_add t 1).symm

/-- A block in BITS whose line is released, as it is throughout a frame (R102). -/
structure State.ReceivesBits (s : State) : Prop where
  phase : s.phase = .bits
  released : s.pinModeAt s.curPin = .input

theorem phaseTick_of_bits {l : Level} {s : State} (h : s.phase = .bits) : phaseTick l s = bitsTick l s := by
  simp [phaseTick, h]

section measurement

variable {s : State} (hs : s.ReceivesBits)
include hs

/-- The released line's level is the sample, and the one before it does not matter (R26, R82). -/
theorem tick_measuring (l l₀ : Level) (m : MSub) (t p : Nat) :
    tick (allLines l) (s.measuring l₀ m t p) = bitsTick l (s.measuring l m t p) := by
  have hsample : s.sample (allLines l) s.curPin = l := by
    rw [sample_of_input _ hs.released, allLines_getElem]
  calc tick (allLines l) (s.measuring l₀ m t p)
    _ = phaseTick (s.sample (allLines l) s.curPin) (s.measuring (s.sample (allLines l) s.curPin) m t p) := rfl
    _ = phaseTick l (s.measuring l m t p) := by rw [hsample]
    _ = bitsTick l (s.measuring l m t p) := phaseTick_of_bits hs.phase

theorem tick_measuring_of_subMove {l l₀ : Level} {m m' : MSub} {t p p' : Nat}
    (h : SubMove l (s.measuring l m t p) m' (.ofNat 16 p')) (ht : t + 1 < tCeil) :
    tick (allLines l) (s.measuring l₀ m t p) = s.measuring l m' (t + 1) p' := by
  have hceil : ((s.measuring l m t p).mt + 1).toNat ≠ tCeil := by
    rw [measuring_mt_succ, BitVec.toNat_ofNat]
    unfold tCeil at *
    omega
  rw [tick_measuring hs, bitsTick_of_subMove h hceil, measuring_mt_succ]
  rfl

/-- A level that stays for `n + 1` ticks: the first moves the measurement to `m'`, and each other one adds `d` to the
pulse. -/
theorem ticks_steady_measuring {l l₀ : Level} {m m' : MSub} {t p p' d : Nat}
    (enter : SubMove l (s.measuring l m t p) m' (.ofNat 16 p'))
    (stay : ∀ t p, SubMove l (s.measuring l m' t p) m' (.ofNat 16 (p + d))) (n : Nat) (hn : t + n + 1 < tCeil) :
    ticks (steady l (n + 1)) (s.measuring l₀ m t p) = s.measuring l m' (t + n + 1) (p' + n * d) := by
  induction n generalizing l₀ m t p p' with
  | zero => rw [zero_mul]; exact tick_measuring_of_subMove hs enter hn
  | succ n ih =>
    have hfirst := tick_measuring_of_subMove hs (l₀ := l₀) enter (by omega)
    have hrest := ih (l₀ := l) (stay (t + 1) p') (by omega)
    calc ticks (steady l (n + 1 + 1)) (s.measuring l₀ m t p)
      _ = ticks (steady l (n + 1)) (tick (allLines l) (s.measuring l₀ m t p)) := rfl
      _ = s.measuring l m' (t + 1 + n + 1) (p' + d + n * d) := by rw [hfirst, hrest]
      _ = s.measuring l m' (t + (n + 1) + 1) (p' + (n + 1) * d) := by congr 1 <;> ring

/-- The high before a pulse's low, of any length, none included (R90). -/
theorem ticks_skip (l₀ : Level) (t p n : Nat) (hn : t + n < tCeil) :
    ∃ l, ticks (steady .high n) (s.measuring l₀ .skip t p) = s.measuring l .skip (t + n) p := by
  cases n with
  | zero => exact ⟨l₀, rfl⟩
  | succ n => exact ⟨.high, ticks_steady_measuring hs (d := 0) (.skipHigh rfl rfl) (fun _ _ => .skipHigh rfl rfl) n hn⟩

/-- The low of a pulse (R90, R91). -/
theorem ticks_low (l₀ : Level) (t p n : Nat) (hpos : 1 ≤ n) (hn : t + n < tCeil) :
    ticks (steady .low n) (s.measuring l₀ .skip t p) = s.measuring .low .rise (t + n) p := by
  obtain ⟨n, rfl⟩ := Nat.exists_eq_add_of_le' hpos
  exact ticks_steady_measuring hs (d := 0) (.skipLow rfl rfl) (fun _ _ => .riseLow rfl rfl) n hn

/-- The high of a pulse, which PW counts (R91, R92). -/
theorem ticks_high (l₀ : Level) (t p n : Nat) (hpos : 1 ≤ n) (hn : t + n < tCeil) :
    ticks (steady .high n) (s.measuring l₀ .rise t p) = s.measuring .high .width (t + n) n := by
  obtain ⟨n, rfl⟩ := Nat.exists_eq_add_of_le' hpos
  have hstay (t p : Nat) : SubMove .high (s.measuring .high .width t p) .width (.ofNat 16 (p + 1)) := by
    rw [BitVec.ofNat_add]
    exact .widthHigh rfl rfl
  have hrun := ticks_steady_measuring hs (l₀ := l₀) (p := p) (p' := 1) (.riseHigh rfl rfl) hstay n hn
  rwa [mul_one, add_comm 1 n] at hrun

/-- The falling edge of a pulse of `p` ticks gives its bit (R92, R93). -/
theorem tick_edge (l₀ : Level) (t p : Nat) (hp : p < tCeil) :
    tick (allLines .low) (s.measuring l₀ .width t p) =
      endBit (decide (tThresh < p)) (s.measuring .low .width (t + 1) p) := by
  have hbit : bitValue (s.measuring .low .width t p).pw = decide (tThresh < p) := by
    have hpw : (s.measuring .low .width t p).pw.toNat = p := Nat.mod_eq_of_lt (hp.trans (by decide))
    rw [bitValue, hpw]
  rw [tick_measuring hs, bitsTick_of_edge rfl, hbit, measuring_mt_succ]
  rfl

end measurement

/-! ## The ticks of a pulse -/

/-- A released block in BITS at the start of a bit measurement (R88). -/
structure State.StartsBit (s : State) : Prop extends s.ReceivesBits where
  skipping : s.msub = .skip
  fresh : s.mt = 0

theorem State.StartsBit.eq_measuring {s : State} (h : s.StartsBit) :
    s = s.measuring s.line .skip 0 s.pw.toNat := by
  simp only [State.measuring, BitVec.ofNat_toNat, BitVec.setWidth_eq, ← h.skipping]
  exact congrArg (fun m => { s with mt := m }) h.fresh

/-- The bit a pulse stands for (R93). -/
def Pulse.bit (p : Pulse) : Bool := decide (tThresh < p.high)

/-- A pulse that fits is the end of its measurement with its bit (R89 to R93). -/
theorem ticks_wave {s : State} (hs : s.StartsBit) {q : Pulse} (hq : q.fits) :
    ticks q.wave s = endBit q.bit (s.measuring .low .width (q.skip + q.low + q.high + 1) q.high) := by
  obtain ⟨hlow, hhigh, hceil⟩ := hq
  have hbits := hs.toReceivesBits
  obtain ⟨l, hskip⟩ := ticks_skip hbits s.line 0 s.pw.toNat q.skip (by omega)
  rw [Pulse.wave, ticks_append, ticks_append, ticks_append, hs.eq_measuring, hskip,
    ticks_low hbits _ _ _ _ hlow (by omega), ticks_high hbits _ _ _ _ hhigh (by omega), zero_add]
  exact tick_edge hbits _ _ _ (by omega)

/-! ## The frame register -/

/-- The bits stored one after another, the first of them counted `n`: SHIFT after as many ends of a measurement (R96). -/
def storeBits (sh : BitVec 40) (n : Nat) : List Bool → BitVec 40
  | [] => sh
  | b :: bs => storeBits (setFrameBit sh (39 - n) b) (n + 1) bs

/-- The bits stored before stay. -/
theorem storeBits_getLsbD_before (bs : List Bool) (sh : BitVec 40) {n j : Nat} (hn : n + bs.length ≤ 40)
    (hj : j < n) : (storeBits sh n bs).getLsbD (39 - j) = sh.getLsbD (39 - j) := by
  induction bs generalizing sh n with
  | nil => rfl
  | cons b bs ih =>
    rw [List.length_cons] at hn
    rw [storeBits, ih _ (by omega) (by omega), setFrameBit_getLsbD _ _ (by omega), if_neg (by omega)]

/-- The most significant bit is stored first (R72). -/
theorem storeBits_getLsbD (bs : List Bool) (sh : BitVec 40) {n i : Nat} (hn : n + bs.length ≤ 40)
    (hi : i < bs.length) : (storeBits sh n bs).getLsbD (39 - (n + i)) = bs[i] := by
  induction bs generalizing sh n i with
  | nil => exact absurd hi (Nat.not_lt_zero i)
  | cons b bs ih =>
    rw [List.length_cons] at hn hi
    cases i with
    | zero =>
      rw [storeBits, storeBits_getLsbD_before bs _ (by omega) (by omega), setFrameBit_getLsbD _ _ (by omega)]
      exact if_pos rfl
    | succ i =>
      rw [storeBits, show n + (i + 1) = n + 1 + i by omega]
      exact ih _ (by omega) (by omega)

/-! ## The ticks of a frame -/

/-- The block with the whole frame in SHIFT (R97). -/
def State.withFrame (sh : BitVec 40) (s : State) : State := { s with bitIdx := 40, shift := sh }

/-- The fortieth bit ends the frame (R97). -/
theorem endBit_last {s : State} (h : s.bitIdx.toNat = 39) (b : Bool) :
    endBit b s = finish (s.withFrame (setFrameBit s.shift (39 - s.bitIdx.toNat) b)) := by
  have hidx : s.bitIdx + 1 = 40 := BitVec.eq_of_toNat_eq (by rw [bitIdx_succ (by omega), h]; rfl)
  obtain ⟨-, he⟩ | ⟨hne, -⟩ := endBit_cases b s
  · rw [he, hidx]
    rfl
  · exact absurd (congrArg BitVec.toNat hidx) hne

/-- Any other bit starts the next measurement, with the line released as before (R88, R96). -/
theorem endBit_next {s : State} (hs : s.ReceivesBits) (h : s.bitIdx.toNat < 39) (b : Bool) :
    (endBit b s).StartsBit ∧ endBit b s = startBit { s with
      shift := setFrameBit s.shift (39 - s.bitIdx.toNat) b, bitIdx := s.bitIdx + 1 } := by
  obtain ⟨hlast, -⟩ | ⟨-, he⟩ := endBit_cases b s
  · rw [bitIdx_succ (by omega), nBits] at hlast
    omega
  · rw [he]
    exact ⟨⟨⟨hs.phase, hs.released⟩, rfl, rfl⟩, rfl⟩

/-- The pulses of the rest of a frame store their bits, and the last of them ends the frame (R96 to R98). -/
theorem ticks_waves {s : State} (hs : s.StartsBit) (q : Pulse) (qs : List Pulse)
    (hlen : s.bitIdx.toNat + (qs.length + 1) = 40) (hfits : ∀ p ∈ q :: qs, p.fits) :
    ∃ l m t p, ticks ((q :: qs).flatMap Pulse.wave) s = finish ((s.measuring l m t p).withFrame
      (storeBits s.shift s.bitIdx.toNat ((q :: qs).map Pulse.bit))) := by
  induction qs generalizing s q with
  | nil =>
    have hend := endBit_last (s := s.measuring .low .width (q.skip + q.low + q.high + 1) q.high)
      (Nat.succ.inj hlen) q.bit
    refine ⟨.low, .width, q.skip + q.low + q.high + 1, q.high, ?_⟩
    rw [List.flatMap_singleton, ticks_wave hs (hfits q List.mem_cons_self), hend]
    rfl
  | cons q' qs ih =>
    rw [List.length_cons] at hlen
    have hbit : s.bitIdx.toNat < 39 := by omega
    obtain ⟨hnext, he⟩ := endBit_next (s := s.measuring .low .width (q.skip + q.low + q.high + 1) q.high)
      ⟨hs.phase, hs.released⟩ hbit q.bit
    have hidx : (s.bitIdx + 1).toNat = s.bitIdx.toNat + 1 := bitIdx_succ (by omega)
    have hrestLen : (s.bitIdx + 1).toNat + (qs.length + 1) = 40 := by omega
    rw [he] at hnext
    obtain ⟨l, m, t, p, hrest⟩ := ih hnext q' hrestLen
      fun p hp => hfits p (List.mem_cons_of_mem q hp)
    refine ⟨l, m, t, p, ?_⟩
    have hstore : storeBits s.shift s.bitIdx.toNat ((q :: q' :: qs).map Pulse.bit) =
        storeBits (setFrameBit s.shift (39 - s.bitIdx.toNat) q.bit) (s.bitIdx + 1).toNat ((q' :: qs).map Pulse.bit) := by
      rw [hidx]
      rfl
    rw [List.flatMap_cons, ticks_append, ticks_wave hs (hfits q List.mem_cons_self), he, hrest, hstore]
    rfl

/-! ## The end of the frame -/

/-- What the end of a frame leaves whether the frame is valid or not (R98 to R102). -/
theorem finish_ends (s : State) :
    (finish s).phase = .idle ∧ (finish s).done = true ∧ (finish s).doneIP = true ∧
    (finish s).err = (if (Frame.ofShift s.shift).valid then .none else .checksumMismatch) ∧
    (finish s).bitIdx = s.bitIdx ∧ (finish s).shift = s.shift := by
  obtain ⟨hv, he⟩ | ⟨hv, he⟩ := finish_cases s
  · obtain ⟨hphase, herr, hdone, hdoneIP, -, -, hidx, hshift, -⟩ := completeRead_ends (Frame.ofShift s.shift) s
    rw [he, hv]
    exact ⟨hphase, hdone, hdoneIP, herr, hidx, hshift⟩
  · rw [he, hv]
    exact ⟨rfl, rfl, rfl, rfl, rfl, rfl⟩

/-- A READ_RAW leaves the scaled results (R114). -/
theorem completeRead_of_readRaw {s : State} (h : s.curOp = .readRaw) (f : Frame) :
    SameScaledT s (completeRead f s) ∧ SameScaledH s (completeRead f s) := by
  obtain ⟨-, he⟩ | ⟨hop, -⟩ := completeRead_cases f s
  · rw [he]
    exact ⟨⟨rfl, rfl, rfl⟩, rfl, rfl, rfl⟩
  · rw [h] at hop
    cases hop

/-- The scaled results depend on the raw results and the variant alone (R114). -/
theorem scaleResults_same (s t : State) (v : Variant) (rawT rawH : Half) :
    SameScaledT (s.scaleResults v rawT rawH) (t.scaleResults v rawT rawH) ∧
    SameScaledH (s.scaleResults v rawT rawH) (t.scaleResults v rawT rawH) := by
  cases v
  · exact ⟨⟨rfl, rfl, rfl⟩, rfl, rfl, rfl⟩
  · exact ⟨⟨rfl, rfl, rfl⟩, rfl, rfl, rfl⟩

/-- A READ_SCALED writes the scaled results of the frame's raw results (R114), which are those of any block. -/
theorem completeRead_of_readScaled {s : State} (h : s.curOp = .readScaled) (f : Frame) (u : State) :
    SameScaledT (u.scaleResults s.curVar (f.unpackRaw s.curVar).1 (f.unpackRaw s.curVar).2) (completeRead f s) ∧
    SameScaledH (u.scaleResults s.curVar (f.unpackRaw s.curVar).1 (f.unpackRaw s.curVar).2) (completeRead f s) := by
  obtain ⟨hop, -⟩ | ⟨-, he⟩ := completeRead_cases f s
  · rw [h] at hop
    cases hop
  · rw [he]
    exact scaleResults_same u _ _ _ _

/-- The results the end of a frame leaves: of a valid frame those of its variant and operation (R101, R103, R114), of any
other the ones before (R100). -/
theorem finish_results (s : State) :
    ((Frame.ofShift s.shift).valid = true →
      ((finish s).rawT, (finish s).rawH) = (Frame.ofShift s.shift).unpackRaw s.curVar ∧
      (s.curOp = .readRaw → SameScaledT s (finish s) ∧ SameScaledH s (finish s)) ∧
      (s.curOp = .readScaled → ∀ u : State,
        SameScaledT (u.scaleResults s.curVar (finish s).rawT (finish s).rawH) (finish s) ∧
        SameScaledH (u.scaleResults s.curVar (finish s).rawT (finish s).rawH) (finish s))) ∧
    ((Frame.ofShift s.shift).valid = false → SameResults s (finish s)) := by
  obtain ⟨hv, he⟩ | ⟨hv, he⟩ := finish_cases s
  · obtain ⟨-, -, -, -, hrawT, hrawH, -⟩ := completeRead_ends (Frame.ofShift s.shift) s
    refine ⟨fun _ => ?_, fun h => absurd (hv.symm.trans h) (by decide)⟩
    rw [he, hrawT, hrawH]
    exact ⟨rfl, fun h => completeRead_of_readRaw h _, fun h u => completeRead_of_readScaled h _ u⟩
  · refine ⟨fun h => ?_, fun _ => ?_⟩
    · rw [hv] at h
      cases h
    · rw [he]
      exact ⟨⟨rfl, rfl⟩, ⟨rfl, rfl, rfl⟩, rfl, rfl, rfl⟩

/-- The forty pulses of a frame are the end of that frame. -/
theorem ticks_frame {s : State} (hs : s.StartsBit) (hidx : s.bitIdx = 0) {ps : List Pulse} (hlen : ps.length = 40)
    (hfits : ∀ p ∈ ps, p.fits) :
    ∃ l m t p, ticks (ps.flatMap Pulse.wave) s =
      finish ((s.measuring l m t p).withFrame (storeBits s.shift 0 (ps.map Pulse.bit))) := by
  have hzero : s.bitIdx.toNat = 0 := congrArg BitVec.toNat hidx
  cases ps with
  | nil => cases hlen
  | cons q qs =>
    rw [← hzero]
    exact ticks_waves hs q qs (by rw [hzero, zero_add]; exact hlen) hfits

/-- Settles O56: the pulses store their bits from the first on, and the fortieth ends the frame that they are. -/
theorem fortyPulsesAssembleTheFrame : Obligations.FortyPulsesAssembleTheFrame := by
  unfold Obligations.FortyPulsesAssembleTheFrame
  intro s ps hinv hphase hmsub hmt hidx hlen hfits t
  have hnotHold : ¬ (s.phase = .hold ∧ s.curPin = s.curPin) := by simp [hphase]
  have hs : s.StartsBit := ⟨⟨hphase, (hinv.pad_released hnotHold).1⟩, hmsub, hmt⟩
  obtain ⟨l, m, n, p, ht⟩ := ticks_frame hs hidx hlen hfits
  have ht : t = finish _ := ht
  obtain ⟨hend, hdone, hdoneIP, herr, hbitIdx, hshift⟩ :=
    finish_ends ((s.measuring l m n p).withFrame (storeBits s.shift 0 (ps.map Pulse.bit)))
  obtain ⟨hvalid, hinvalid⟩ :=
    finish_results ((s.measuring l m n p).withFrame (storeBits s.shift 0 (ps.map Pulse.bit)))
  rw [ht, hshift]
  refine ⟨fun i hi => ?_, hbitIdx, hend, hdone, hdoneIP, herr, fun hv => ?_, hinvalid⟩
  · have hstored := storeBits_getLsbD (ps.map Pulse.bit) s.shift (n := 0) (i := i) (by simp [hlen]) (by simpa using hi)
    rw [zero_add, List.getElem_map] at hstored
    exact hstored
  · obtain ⟨hraw, hunscaled, hscaled⟩ := hvalid hv
    exact ⟨hraw, hunscaled, fun hop => hscaled hop s⟩

end Sys2Proof.Machine

/-! PROOF. What one tick does in each phase of a read, rule by rule (41_decoder.md R81 to R87, R102). -/

namespace Sys2Proof.Machine

/-! ## The phase's rule -/

section phases

variable {s : State} (lv : Levels)

theorem tick_of_idle (h : s.phase = .idle) : tick lv s = { s with line := s.sample lv s.curPin } := by
  rw [tick_eq]
  simp [phaseTick, h]

theorem tick_of_hold (h : s.phase = .hold) :
    tick lv s = holdTick { s with line := s.sample lv s.curPin } := by
  rw [tick_eq]
  simp [phaseTick, h]

theorem tick_of_rel (h : s.phase = .rel) :
    tick lv s = relTick { s with line := s.sample lv s.curPin } := by
  rw [tick_eq]
  simp [phaseTick, h]

theorem tick_of_wlow (h : s.phase = .wlow) :
    tick lv s = wlowTick (s.sample lv s.curPin) { s with line := s.sample lv s.curPin } := by
  rw [tick_eq]
  simp [phaseTick, h]

theorem tick_of_whigh (h : s.phase = .whigh) :
    tick lv s = whighTick (s.sample lv s.curPin) { s with line := s.sample lv s.curPin } := by
  rw [tick_eq]
  simp [phaseTick, h]

theorem tick_of_bits (h : s.phase = .bits) :
    tick lv s = bitsTick (s.sample lv s.curPin) { s with line := s.sample lv s.curPin } := by
  rw [tick_eq]
  exact phaseTick_of_bits h

end phases

/-- Settles O29: in IDLE the tick has no rule but the sample's. -/
theorem idleTickChangesOnlyLine : Obligations.IdleTickChangesOnlyLine := by
  unfold Obligations.IdleTickChangesOnlyLine
  exact fun s lv h => tick_of_idle lv h

/-! ## The release of the line -/

/-- A low at a tick in WLOW opens the second window, at its last tick too (R86). -/
theorem tick_wlow_of_low {s : State} (hp : s.phase = .wlow) {lv : Levels}
    (hl : s.sample lv s.curPin = .low) : tick lv s = { s with line := .low, phase := .whigh, ctr := 0 } := by
  rw [tick_of_wlow lv hp, hl]
  rfl

/-- Settles O32: REL counts to T_REL, and the tick after that is one of WLOW. -/
theorem relTickCountsReleaseTime : Obligations.RelTickCountsReleaseTime := by
  unfold Obligations.RelTickCountsReleaseTime
  intro s lv hp
  have htick := tick_of_rel lv hp
  refine ⟨htick, fun hlast lv' hl => ?_⟩
  have hopen : tick lv s = { s with line := s.sample lv s.curPin, phase := .wlow, ctr := 0 } :=
    htick.trans (if_pos hlast)
  rw [hopen]
  exact tick_wlow_of_low rfl hl

/-! ## The handshake windows -/

/-- A read that fails changes PHASE, the flags and the pad of its own line, which is released (R102). -/
theorem fail_eq (s : State) (e : ErrKind) :
    s.fail e = { s with
      phase := .idle, err := e, done := true, doneIP := true
      pinMode := (s.fail e).pinMode, pinLvl := (s.fail e).pinLvl } ∧
    (∀ p, (s.fail e).pinModeAt p = if p = s.curPin then .input else s.pinModeAt p) ∧
    (∀ p, (s.fail e).pinLvlAt p = if p = s.curPin then .high else s.pinLvlAt p) :=
  ⟨rfl, pinModeAt_fail s e, pinLvlAt_fail s e⟩

/-- Settles O33, by the sample and, when it is high, by whether the window closes. -/
theorem firstWindowTick : Obligations.FirstWindowTick := by
  unfold Obligations.FirstWindowTick
  intro s lv hp
  refine ⟨tick_wlow_of_low hp, fun hl hopen => ?_, fun hl hlast => ?_⟩
  · rw [tick_of_wlow lv hp, hl]
    exact if_neg hopen
  · have htick : tick lv s = State.fail .noResponse { s with line := .high, ctr := s.ctr + 1 } := by
      rw [tick_of_wlow lv hp, hl]
      exact if_pos hlast
    rw [htick]
    exact fail_eq _ _

/-- Settles O34, by the sample and, when it is low, by whether the window closes. -/
theorem secondWindowTick : Obligations.SecondWindowTick := by
  unfold Obligations.SecondWindowTick
  intro s lv hp
  refine ⟨fun hl => ?_, fun hl hopen => ?_, fun hl hlast => ?_⟩
  · rw [tick_of_whigh lv hp, hl]
    rfl
  · rw [tick_of_whigh lv hp, hl]
    exact if_neg hopen
  · have htick : tick lv s = State.fail .malformedHandshake { s with line := .low, ctr := s.ctr + 1 } := by
      rw [tick_of_whigh lv hp, hl]
      exact if_pos hlast
    rw [htick]
    exact fail_eq _ _

/-! ## The start pulse -/

/-- The next count of HOLD does not wrap (R19). -/
theorem ofNat_succ_toNat {v : Variant} {n : Nat} (h : n + 1 ≤ tHold v) :
    (BitVec.ofNat 16 n + 1).toNat = n + 1 := by
  obtain ⟨-, hmax⟩ := tHold_range v
  rw [show BitVec.ofNat 16 n + 1 = BitVec.ofNat 16 (n + 1) from (BitVec.ofNat_add n 1).symm, BitVec.toNat_ofNat]
  omega

section startPulse

variable {s : State} (hp : s.phase = .hold) (hm : s.pinModeAt s.curPin = .output)
  (hl : s.pinLvlAt s.curPin = .low)

include hp hm hl

/-- The driven line samples Low, and HOLD counts (R84). -/
theorem tick_hold_counts (lv : Levels) (h : (s.ctr + 1).toNat ≠ tHold s.curVar) :
    tick lv s = { s with line := .low, ctr := s.ctr + 1 } := by
  rw [tick_of_hold lv hp, sample_of_drivenLow lv hm hl]
  exact if_neg h

/-- The last tick of HOLD still samples Low, and then releases the line (R84). -/
theorem tick_hold_releases (lv : Levels) (h : (s.ctr + 1).toNat = tHold s.curVar) :
    tick lv s = { s.releaseLine s.curPin with line := .low, phase := .rel, ctr := 0 } := by
  rw [tick_of_hold lv hp, sample_of_drivenLow lv hm hl]
  exact if_pos h

/-- Fewer ticks than T_HOLD change CTR and LINE only (R84). -/
theorem ticks_hold (h0 : s.ctr = 0) (lvs : List Levels) (hlt : lvs.length < tHold s.curVar) :
    ticks lvs s = { s with
      ctr := BitVec.ofNat 16 lvs.length, line := if lvs = [] then s.line else .low } := by
  induction lvs using List.reverseRecOn with
  | nil => exact congrArg (fun c => { s with ctr := c }) h0
  | append_singleton lvs lv ih =>
    have hlen : (lvs ++ [lv]).length = lvs.length + 1 := by simp
    rw [hlen] at hlt
    have hne : (BitVec.ofNat 16 lvs.length + 1).toNat ≠ tHold s.curVar := by
      rw [ofNat_succ_toNat hlt.le]
      exact hlt.ne
    have hlast := tick_hold_counts (s := { s with
      ctr := BitVec.ofNat 16 lvs.length, line := if lvs = [] then s.line else .low }) hp hm hl lv hne
    have hne : lvs ++ [lv] ≠ [] := List.append_ne_nil_of_right_ne_nil lvs (List.cons_ne_nil lv [])
    rw [ticks_append, ih (by omega), hlen, if_neg hne, BitVec.ofNat_add]
    exact hlast

/-- The last of T_HOLD ticks releases the line (R84). -/
theorem ticks_hold_releases (h0 : s.ctr = 0) (lvs : List Levels) (hlen : lvs.length = tHold s.curVar) :
    ticks lvs s = { s.releaseLine s.curPin with line := .low, phase := .rel, ctr := 0 } := by
  obtain ⟨hpos, -⟩ := tHold_range s.curVar
  obtain rfl | ⟨lvs, lv, rfl⟩ := lvs.eq_nil_or_concat'
  · exact absurd hlen (by simp; omega)
  · have hlen : lvs.length + 1 = tHold s.curVar := by simpa using hlen
    have hlast := tick_hold_releases (s := { s with
      ctr := BitVec.ofNat 16 lvs.length, line := if lvs = [] then s.line else .low }) hp hm hl lv
      ((ofNat_succ_toNat hlen.le).trans hlen)
    rw [ticks_append, ticks_hold hp hm hl h0 lvs (by omega), ticks_cons, ticks_nil, hlast]
    rfl

end startPulse

/-- Settles O31: T_HOLD - 1 ticks count, and the next one releases the line. -/
theorem startPulseLastsHoldTime : Obligations.StartPulseLastsHoldTime := by
  unfold Obligations.StartPulseLastsHoldTime
  intro s lvs hp h0 hm hl n
  have hn : n = tHold s.curVar := rfl
  rw [hn]
  refine ⟨ticks_hold hp hm hl h0 lvs, fun hlen => ?_⟩
  rw [ticks_hold_releases hp hm hl h0 lvs hlen]
  exact ⟨rfl, fun p => pinModeAt_setPin s s.curPin p .input .high,
    fun p => pinLvlAt_setPin s s.curPin p .input .high⟩

/-- An accepted read of an existing line starts (R81). -/
theorem requestRead_of_exists {op : ReadOp} {pin : PinNo} {var : Variant} {s : State}
    (h : pin.toNat < s.params.nPins) : s.requestRead op pin var = s.startRead op pin var := by
  obtain ⟨-, he⟩ | ⟨hge, -⟩ := requestRead_cases op pin var s
  · exact he
  · exact absurd h (Nat.not_lt.2 hge)

/-- Through the ticks of HOLD, the last one included, the line samples Low (R81). -/
theorem ticks_startRead_line (s : State) (op : ReadOp) (pin : PinNo) (var : Variant) {lvs : List Levels}
    (hne : lvs ≠ []) (hle : lvs.length ≤ tHold var) : (ticks lvs (s.startRead op pin var)).line = .low := by
  have hm : (s.startRead op pin var).pinModeAt pin = .output := by simp
  have hl : (s.startRead op pin var).pinLvlAt pin = .low := by simp
  obtain hlt | heq := hle.lt_or_eq
  · rw [ticks_hold rfl hm hl rfl lvs hlt]
    exact if_neg hne
  · rw [ticks_hold_releases rfl hm hl rfl lvs heq]

/-- Settles O24: both reads start the same way but for CUR_OP. -/
theorem acceptedReadStarts : Obligations.AcceptedReadStarts := by
  unfold Obligations.AcceptedReadStarts
  intro s pin var hidle hpin
  have starts (op : ReadOp) : s.clearStatus.requestRead op pin var = s.clearStatus.startRead op pin var :=
    requestRead_of_exists hpin
  refine ⟨s.clearStatus.startRead .readRaw pin var, ?_, ?_, 
    fun p => pinModeAt_startRead s.clearStatus .readRaw pin p var,
    fun p => pinLvlAt_startRead s.clearStatus .readRaw pin p var, fun lvs => ticks_startRead_line _ _ _ _, rfl⟩
  · rw [exec_eq_present, present_of_idle hidle, acceptedEffect, starts]
    rfl
  · rw [exec_eq_present, present_of_idle hidle, acceptedEffect, starts]
    rfl

end Sys2Proof.Machine

/-! PROOF. The bit measurement and the end of the frame (41_decoder.md R88 to R103): what each tick in BITS does below
the ceiling and at it, the bit its end stores, and what the fortieth bit leaves. -/

namespace Sys2Proof.Machine

/-! ## The end of a measurement -/

/-- A bit before the fortieth starts the next measurement (R96). -/
theorem endBit_of_not_last {s : State} (h : s.bitIdx.toNat < 39) (b : Bool) :
    endBit b s = { s with
      shift := setFrameBit s.shift (39 - s.bitIdx.toNat) b, bitIdx := s.bitIdx + 1
      mt := 0, pw := 0, msub := .skip } := by
  obtain ⟨hlast, -⟩ | ⟨-, he⟩ := endBit_cases b s
  · rw [bitIdx_succ (by omega), nBits] at hlast
    omega
  · exact he

/-- The end of a measurement counts its bit and stores it, the fortieth too (R96). -/
theorem endBit_stores (b : Bool) (s : State) :
    (endBit b s).bitIdx = s.bitIdx + 1 ∧
    (endBit b s).shift = setFrameBit s.shift (39 - s.bitIdx.toNat) b := by
  obtain ⟨-, he⟩ | ⟨-, he⟩ := endBit_cases b s
  · obtain ⟨-, -, -, -, hidx, hshift⟩ := finish_ends
      { s with shift := setFrameBit s.shift (39 - s.bitIdx.toNat) b, bitIdx := s.bitIdx + 1 }
    rw [he]
    exact ⟨hidx, hshift⟩
  · rw [he]
    exact ⟨rfl, rfl⟩

/-- The end of a frame leaves the measurement's own PW and MSUB (R98 to R102). -/
theorem finish_measurement (s : State) : (finish s).pw = s.pw ∧ (finish s).msub = s.msub := by
  obtain ⟨-, he⟩ | ⟨-, he⟩ := finish_cases s
  · obtain ⟨-, -, -, -, -, -, -, -, -, -, hpw, hmsub, -⟩ := completeRead_ends (Frame.ofShift s.shift) s
    rw [he]
    exact ⟨hpw, hmsub⟩
  · rw [he]
    exact ⟨rfl, rfl⟩

/-- Settles O38: the bit at the place BITIDX counts to, and the frame's end at the fortieth. -/
theorem endOfMeasurementStoresBit : Obligations.EndOfMeasurementStoresBit := by
  unfold Obligations.EndOfMeasurementStoresBit
  intro b s hidx
  refine ⟨setFrameBit s.shift (39 - s.bitIdx.toNat) b, fun k hk => setFrameBit_getLsbD s.shift b hk, ?_⟩
  split
  · next hlast => exact endBit_last hlast b
  · exact endBit_of_not_last (by omega) b

/-! ## One tick of a measurement -/

/-- Settles O35, by the sub-phase and the sample. -/
theorem subPhaseTickBelowCeiling : Obligations.SubPhaseTickBelowCeiling := by
  unfold Obligations.SubPhaseTickBelowCeiling
  intro s lv hp hceil l u
  have htick : tick lv s = bitsTick l { s with line := l } := tick_of_bits lv hp
  have moves {m p} (h : SubMove l { s with line := l } m p) : tick lv s = { u with msub := m, pw := p } :=
    htick.trans (bitsTick_of_subMove h hceil)
  have hlevel : l = .low ∨ l = .high := by cases l <;> simp
  refine ⟨fun hs => ?_, fun hs => ?_, fun hs hl => ?_, fun hs hl => ?_⟩
  · obtain hl | hl := hlevel
    · rw [if_pos hl]
      exact moves (.skipLow hs hl)
    · rw [if_neg (by simp [hl]), moves (.skipHigh hs hl), ← hs]
  · obtain hl | hl := hlevel
    · rw [if_neg (by simp [hl]), moves (.riseLow hs hl), ← hs]
    · rw [if_pos hl]
      exact moves (.riseHigh hs hl)
  · rw [moves (.widthHigh hs hl), ← hs]
  · rw [htick]
    clear_value l
    subst hl
    exact bitsTick_of_edge (s := { s with line := .low }) hs

/-- The bit with which the ceiling ends a measurement: 0, or what the edge at that tick decides (R94, R95). -/
def ceilingBit (s : State) (lv : Levels) : Bool :=
  decide (s.msub = .width ∧ s.sample lv s.curPin = .low ∧ 30 < s.pw.toNat)

/-- A tick at the ceiling ends the measurement, with or without an edge (R94, R95). -/
theorem tick_at_ceiling {s : State} (lv : Levels) (hp : s.phase = .bits) (hceil : (s.mt + 1).toNat = 1000) :
    ∃ m p, tick lv s = endBit (ceilingBit s lv)
      { s with line := s.sample lv s.curPin, mt := s.mt + 1, msub := m, pw := p } := by
  rw [tick_of_bits lv hp]
  obtain ⟨m, p, -, hne, -⟩ | ⟨m, p, hmove, -, he⟩ | ⟨hw, hl, he⟩ :=
    bitsTick_cases (s.sample lv s.curPin) { s with line := s.sample lv s.curPin }
  · exact absurd hceil hne
  · have hbit : ceilingBit s lv = false :=
      decide_eq_false fun ⟨hw, hl, _⟩ => hmove.not_edge ⟨hw, hl⟩
    exact ⟨m, p, hbit ▸ he⟩
  · have hbit : ceilingBit s lv = bitValue s.pw :=
      decide_eq_decide.2 ⟨fun ⟨_, _, h⟩ => h, fun h => ⟨hw, hl, h⟩⟩
    exact ⟨s.msub, s.pw, hbit ▸ he⟩

/-- The tick's end of the fortieth bit, said of the state it leaves (R97, R98). -/
theorem eq_finish_of_last {s t : State} {b : Bool} (ht : t = endBit b s) (hidx : s.bitIdx.toNat = 39) :
    t = finish { s with shift := t.shift, bitIdx := 40, pw := t.pw, msub := t.msub } := by
  obtain ⟨-, hshift⟩ := endBit_stores b s
  have hlast := endBit_last hidx b
  obtain ⟨hpw, hmsub⟩ := finish_measurement (s.withFrame (setFrameBit s.shift (39 - s.bitIdx.toNat) b))
  rw [← hlast, ← ht] at hpw hmsub
  rw [← ht] at hshift hlast
  rw [hpw, hmsub, hshift]
  exact hlast

/-- Settles O36: the tick is the end of the measurement with the bit of the ceiling. -/
theorem ceilingEndsMeasurement : Obligations.CeilingEndsMeasurement := by
  unfold Obligations.CeilingEndsMeasurement
  intro s lv hp hceil hidx t
  obtain ⟨m, p, ht⟩ := tick_at_ceiling lv hp hceil
  have ht : t = endBit (ceilingBit s lv) _ := ht
  obtain ⟨hcount, hshift⟩ := endBit_stores (ceilingBit s lv)
    { s with line := s.sample lv s.curPin, mt := s.mt + 1, msub := m, pw := p }
  rw [← ht] at hcount hshift
  refine ⟨fun k hk => ?_, hcount, fun hnext => ?_, fun hlast => ?_⟩
  · rw [hshift]
    exact setFrameBit_getLsbD s.shift (ceilingBit s lv) hk
  · rw [hshift, ht]
    refine endBit_of_not_last ?_ _
    exact hnext
  · have he := eq_finish_of_last ht hlast
    obtain ⟨hidle, -, -, herr, -⟩ := finish_ends { s with
      line := s.sample lv s.curPin, shift := t.shift, bitIdx := 40, mt := s.mt + 1, pw := t.pw, msub := t.msub }
    rw [← he] at hidle herr
    exact ⟨he, hidle, herr⟩

/-- Settles O37: the ticks of the pulse are the end of its measurement, and the next one starts. -/
theorem measurementReadsPulseWidth : Obligations.MeasurementReadsPulseWidth := by
  unfold Obligations.MeasurementReadsPulseWidth
  intro s p hp hmsub hmt hpw hpin hidx hfits t
  have hstart : s.StartsBit := ⟨⟨hp, hpin⟩, hmsub, hmt⟩
  have ht : t = { s with
      line := .low, shift := setFrameBit s.shift (39 - s.bitIdx.toNat) p.bit, bitIdx := s.bitIdx + 1
      mt := 0, pw := 0, msub := .skip } := by
    refine (ticks_wave hstart hfits).trans (endBit_of_not_last ?_ p.bit)
    exact hidx
  constructor
  · rw [ht, hmt, hpw, hmsub]
  · intro k hk
    rw [ht]
    exact setFrameBit_getLsbD s.shift p.bit hk

/-! ## The checksum -/

/-- The checksum as the sum of the data bytes in eight bits (R75). -/
theorem valid_iff_sum {f : Frame} : f.valid = true ↔ f.byte0 + f.byte1 + f.byte2 + f.byte3 = f.byte4 := by
  rw [Frame.valid, beq_iff_eq, ← BitVec.toNat_inj]
  simp only [BitVec.toNat_add, Nat.add_mod, Nat.mod_mod]

/-- A flipped bit changes the byte its place is in and no other. -/
theorem byte_flip_eq_iff (sh : BitVec 40) {k j : Nat} (hk : k < 40) :
    (sh ^^^ (1#40 <<< k)).extractLsb' j 8 = sh.extractLsb' j 8 ↔ ¬ (j ≤ k ∧ k < j + 8) := by
  constructor
  · intro h hin
    have hbit := congrArg (BitVec.getLsbD · (k - j)) h
    have hplace : j + (k - j) = k := by omega
    have hlt : k - j < 8 := by omega
    simp [hplace, hlt, hk] at hbit
  · intro hout
    apply BitVec.eq_of_getLsbD_eq
    intro i hi
    have hclear : (1#40 <<< k).getLsbD (j + i) = false := by
      simp only [BitVec.getLsbD_shiftLeft, BitVec.getLsbD_one, Bool.and_eq_false_iff, Bool.not_eq_eq_eq_not,
        Bool.not_false, decide_eq_true_eq, decide_eq_false_iff_not]
      omega
    rw [BitVec.getLsbD_extractLsb', BitVec.getLsbD_extractLsb', BitVec.getLsbD_xor, hclear, Bool.xor_false]

/-- Settles O44: the flip changes one of the data bytes, and so the sum, but not the byte it must agree with. -/
theorem singleBitCorruptionIsDetected : Obligations.SingleBitCorruptionIsDetected := by
  unfold Obligations.SingleBitCorruptionIsDetected
  intro sh k hvalid hlo hk
  have same {j : Nat} (h : ¬ (j ≤ k ∧ k < j + 8)) := (byte_flip_eq_iff sh hk).2 h
  rw [Bool.eq_false_iff]
  intro hflipped
  rw [valid_iff_sum] at hvalid hflipped
  simp only [Frame.ofShift] at hvalid hflipped
  have hbyte : k < 16 ∨ 16 ≤ k ∧ k < 24 ∨ 24 ≤ k ∧ k < 32 ∨ 32 ≤ k := by omega
  rw [same (j := 0) (by omega), ← hvalid] at hflipped
  obtain h | h | h | h := hbyte
  all_goals
    simp (disch := omega) only [same, add_left_inj, add_right_inj, byte_flip_eq_iff sh hk] at hflipped
    omega

/-! ## The end of the frame -/

/-- The checksum of a frame register put together from five bytes (R75, R99). -/
theorem valid_append_iff {b0 b1 b2 b3 b4 : Byte} : (Frame.ofShift (b0 ++ b1 ++ b2 ++ b3 ++ b4)).valid = true ↔
    (b0.toNat + b1.toNat + b2.toNat + b3.toNat) % 256 = b4.toNat := by
  rw [ofShift_append, Frame.valid, beq_iff_eq]

/-- Settles O40: the checksum decides, and the failure releases the line. -/
theorem invalidFrameFailsRead : Obligations.InvalidFrameFailsRead := by
  unfold Obligations.InvalidFrameFailsRead
  intro s b0 b1 b2 b3 b4 hshift hsum t
  have ht : t = s.fail .checksumMismatch := by
    obtain ⟨hvalid, -⟩ | ⟨-, he⟩ := finish_cases s
    · rw [hshift, valid_append_iff] at hvalid
      exact absurd hvalid hsum
    · exact he
  rw [ht]
  exact fail_eq s .checksumMismatch

/-- Scaling reads and writes no raw result, and a completion neither reads nor writes a scaled one (R101, R114). -/
theorem complete_scaleResults (s : State) (v : Variant) (rawT rawH : Half) :
    ({ s with rawT := rawT, rawH := rawH }.scaleResults v rawT rawH).complete =
      { s.scaleResults v rawT rawH with
        rawT := rawT, rawH := rawH, phase := .idle, err := .none, done := true, doneIP := true } := by
  cases v <;> rfl

/-- Scaling neither reads nor writes the measurement and the frame (R114). -/
theorem scaleResults_setMeasurement (s : State) (v : Variant) (rawT rawH : Half) (l : Level) (mt pw : BitVec 16)
    (m : MSub) (sh : BitVec 40) (n : BitVec 6) :
    State.scaleResults v rawT rawH { s with line := l, mt := mt, pw := pw, msub := m, shift := sh, bitIdx := n } =
      { s.scaleResults v rawT rawH with line := l, mt := mt, pw := pw, msub := m, shift := sh, bitIdx := n } := by
  cases v <;> rfl

/-- A frame whose sum agrees completes the read with its raw results, and a READ_SCALED with the scaled ones (R101,
R114). -/
theorem finish_of_sum {s : State} {b0 b1 b2 b3 b4 : Byte} (hshift : s.shift = b0 ++ b1 ++ b2 ++ b3 ++ b4)
    (hsum : (b0.toNat + b1.toNat + b2.toNat + b3.toNat) % 256 = b4.toNat) :
    let raw := Frame.unpackRaw ⟨b0, b1, b2, b3, b4⟩ s.curVar
    (s.curOp = .readRaw → finish s = { s with
      rawT := raw.1, rawH := raw.2, phase := .idle, err := .none, done := true, doneIP := true }) ∧
    (s.curOp = .readScaled → finish s = { s.scaleResults s.curVar raw.1 raw.2 with
      rawT := raw.1, rawH := raw.2, phase := .idle, err := .none, done := true, doneIP := true }) := by
  have he : finish s = completeRead ⟨b0, b1, b2, b3, b4⟩ s := by
    obtain ⟨-, he⟩ | ⟨hinvalid, -⟩ := finish_cases s
    · rw [he, hshift, ofShift_append]
    · rw [hshift, valid_append_iff.2 hsum] at hinvalid
      cases hinvalid
  rw [he]
  obtain ⟨hraw, hc⟩ | ⟨hscaled, hc⟩ := completeRead_cases ⟨b0, b1, b2, b3, b4⟩ s
  · exact ⟨fun _ => hc, fun h => absurd (hraw.symm.trans h) (by decide)⟩
  · refine ⟨fun h => absurd (hscaled.symm.trans h) (by decide), fun _ => hc.trans ?_⟩
    exact complete_scaleResults s s.curVar _ _

/-- A tick in BITS ends the measurement, by an edge or by the ceiling, or counts no bit (R89, R96). -/
theorem tick_bits_cases {s : State} (lv : Levels) (hp : s.phase = .bits) :
    (tick lv s).bitIdx = s.bitIdx ∨ ∃ b m p, tick lv s = endBit b
      { s with line := s.sample lv s.curPin, mt := s.mt + 1, msub := m, pw := p } := by
  rw [tick_of_bits lv hp]
  obtain ⟨m, p, -, -, he⟩ | ⟨m, p, -, -, he⟩ | ⟨-, -, he⟩ :=
    bitsTick_cases (s.sample lv s.curPin) { s with line := s.sample lv s.curPin }
  · exact .inl (by rw [he])
  · exact .inr ⟨false, m, p, he⟩
  · exact .inr ⟨_, s.msub, s.pw, he⟩

/-- Settles O39: the tick that counts the fortieth bit is the end of the frame. -/
theorem validFrameCompletesRead : Obligations.ValidFrameCompletesRead := by
  unfold Obligations.ValidFrameCompletesRead
  intro s b0 b1 b2 b3 b4 hsum
  refine ⟨(Frame.unpackRaw ⟨b0, b1, b2, b3, b4⟩ s.curVar).1, (Frame.unpackRaw ⟨b0, b1, b2, b3, b4⟩ s.curVar).2,
    fun hv => ?_, fun hv => ?_, fun hshift => finish_of_sum hshift hsum, ?_⟩
  · rw [hv]
    exact ⟨rfl, rfl⟩
  · rw [hv]
    have extended (b : Byte) : b.zeroExtend 16 = 0#8 ++ b := BitVec.setWidth_eq_append (by decide)
    exact ⟨extended b2, extended b0⟩
  · intro lv hp hidx hcount hshift t
    obtain hsame | ⟨b, m, p, ht⟩ := tick_bits_cases lv hp
    · rw [hcount, hidx] at hsame
      cases hsame
    have he := eq_finish_of_last ht (congrArg BitVec.toNat hidx)
    rw [hshift] at he
    obtain ⟨hraw, hscaled⟩ := finish_of_sum (s := { s with
      line := s.sample lv s.curPin, mt := s.mt + 1, pw := t.pw, msub := t.msub
      shift := b0 ++ b1 ++ b2 ++ b3 ++ b4, bitIdx := 40 }) rfl hsum
    rw [show t.shift = _ from hshift]
    refine ⟨fun hop => he.trans (hraw hop), fun hop => (he.trans (hscaled hop)).trans ?_⟩
    rw [scaleResults_setMeasurement]

end Sys2Proof.Machine

/-! PROOF. The line a read drives (41_decoder.md R104, 10_state.md R25) and the time a read takes (41_decoder.md
R106). -/

namespace Sys2Proof.Machine

/-! ## The driven line -/

/-- The pads of every line but `q` are unchanged. -/
def SameOtherPads (q : PinNo) (s t : State) : Prop :=
  ∀ p, p ≠ q → t.pinModeAt p = s.pinModeAt p ∧ t.pinLvlAt p = s.pinLvlAt p

theorem SamePins.sameOtherPads {s t : State} (h : SamePins s t) (q : PinNo) : SameOtherPads q s t := by
  obtain ⟨hm, hl⟩ := h
  exact fun p _ => ⟨pinModeAt_congr hm p, pinLvlAt_congr hl p⟩

/-- A pad write leaves every other line's pad. -/
theorem sameOtherPads_of_set {s t : State} {q : PinNo} {m : PinMode} {l : Level}
    (hm : t.pinMode = s.pinMode.set q.toNat m q.isLt) (hl : t.pinLvl = s.pinLvl.set q.toNat l q.isLt) :
    SameOtherPads q s t := fun p hp =>
  ⟨(pinModeAt_of_set hm p).trans (if_neg hp), (pinLvlAt_of_set hl p).trans (if_neg hp)⟩

/-- A tick drives or releases line CUR_PIN only (R104). -/
theorem TickMove.sameOtherPads {s t : State} (h : TickMove s t) : SameOtherPads s.curPin s t := by
  cases h with
  | stays _ _ hpins => exact hpins.sameOtherPads _
  | releases _ _ _ _ hm hl => exact sameOtherPads_of_set hm hl
  | advances _ _ hpins => exact hpins.sameOtherPads _
  | fails _ _ _ _ _ hm hl => exact sameOtherPads_of_set hm hl
  | completes _ _ _ _ _ _ _ hpins => exact hpins.sameOtherPads _

/-- The line a read holds low is driven low (R81, R104). -/
theorem State.Inv.pad_held {s : State} (h : s.Inv) {q : PinNo} (hq : s.phase = .hold ∧ q = s.curPin) :
    s.pinModeAt q = .output ∧ s.pinLvlAt q = .low := by
  have hpad := h.pads q
  rw [State.padOf, if_pos hq] at hpad
  exact Prod.mk.inj hpad

/-- A step but an asserted reset drives or releases line CUR_PIN only (R104). -/
theorem BlockStep.sameOtherPads {inp : Input} {u t : State} (hb : BlockStep inp u t)
    (hreset : inp ≠ .resetLine true) : SameOtherPads t.curPin u t := by
  have unchanged {s t : State} (hm : t.pinMode = s.pinMode) (hl : t.pinLvl = s.pinLvl) (q : PinNo) :
      SameOtherPads q s t := SamePins.sameOtherPads ⟨hm, hl⟩ q
  cases hb with
  | accepted v i =>
    obtain ⟨e, he⟩ | ⟨imm, -, he⟩ | ⟨imm, -, he⟩ | ⟨op, pin, var, -, -, he⟩ :=
      acceptedEffect_cases i u.clearStatus
    · exact he ▸ unchanged rfl rfl _
    · exact he ▸ unchanged rfl rfl _
    · exact he ▸ unchanged rfl rfl _
    · exact he ▸ sameOtherPads_of_set rfl rfl
  | ticked lv =>
    obtain ⟨⟨hcur, -⟩, -⟩ := tick_frame lv u
    exact hcur ▸ (tick_move lv u).sameOtherPads
  | resetOn hinp => exact absurd hinp hreset
  | replied | heldTick | rejected | illegal | intEn | intPend | resetOff => exact unchanged rfl rfl _

/-- Settles O55: the first clause from the moves of a step, the others from the pads of a legal state. -/
theorem onlyTheReadLineIsDriven : Obligations.OnlyTheReadLineIsDriven := by
  unfold Obligations.OnlyTheReadLineIsDriven
  refine ⟨fun s t p hstep hin hp => ?_, fun s p h => ?_⟩
  · obtain ⟨-, i, d, r, hb⟩ := step_cases hstep
    exact hb.sameOtherPads hin p hp
  · unfold State.pinOe State.pinOut State.pinPu
    by_cases hhold : s.phase = .hold ∧ p = s.curPin
    · obtain ⟨hm, hl⟩ := h.pad_held hhold
      rw [hm, hl]
      exact ⟨iff_of_true rfl hhold, fun _ => rfl, rfl⟩
    · obtain ⟨hm, hl⟩ := h.pad_released hhold
      rw [hm, hl]
      exact ⟨iff_of_false (by decide) hhold, fun hoe => absurd hoe (by decide), rfl⟩

/-! ## The time of a read

`n` ticks after its start a read is in one of its phases, at a tick that the phase's own counter tells up to the length
of the phases before it. Each tick keeps this, whatever it samples, so the bounds of the counters bound the read. -/

/-- The least number of ticks from the start of a read to the start of BITS (R106). -/
def leastHandshake (p : Params) (v : Variant) : Nat := tHold v + p.tRel + 2

/-- The greatest number of ticks from the start of a read to the start of BITS (R106). -/
def mostHandshake (p : Params) (v : Variant) : Nat := tHold v + p.tRel + p.tWlow + p.tWhigh

/-- A measurement is in RISE after its first tick at the earliest, and in WIDTH after its second (R90, R91). -/
def MSub.leastTicks : MSub → Nat
  | .skip => 0
  | .rise => 1
  | .width => 2

/-- Where a read can be `n` ticks after its start, and what it has signalled when it has ended. -/
def State.ReadAt (n : Nat) (s : State) : Prop :=
  match s.phase with
  | .idle => s.done = true ∧ s.doneIP = true ∧ (s.err = .none → leastHandshake s.params s.curVar + 3 * 40 ≤ n)
  | .hold => n = s.ctr.toNat
  | .rel => n = tHold s.curVar + s.ctr.toNat
  | .wlow => n = tHold s.curVar + s.params.tRel + s.ctr.toNat
  | .whigh =>
    tHold s.curVar + s.params.tRel + 1 + s.ctr.toNat ≤ n ∧
    n ≤ tHold s.curVar + s.params.tRel + s.params.tWlow + s.ctr.toNat
  | .bits =>
    leastHandshake s.params s.curVar + 3 * s.bitIdx.toNat + s.mt.toNat ≤ n ∧
    n ≤ mostHandshake s.params s.curVar + 1000 * s.bitIdx.toNat + s.mt.toNat ∧
    s.msub.leastTicks ≤ s.mt.toNat

/-! ### The ends of a read -/

theorem readAt_fail (s : State) {e : ErrKind} (he : e ≠ .none) (n : Nat) : (s.fail e).ReadAt n :=
  ⟨rfl, rfl, fun h => absurd h he⟩

/-- The end of a frame, not before its least time (R98 to R101). -/
theorem readAt_finish {s : State} {n : Nat} (h : leastHandshake s.params s.curVar + 3 * 40 ≤ n) :
    (finish s).ReadAt n := by
  obtain ⟨hphase, hdone, hdoneIP, -⟩ := finish_ends s
  obtain ⟨⟨-, hvar, -⟩, -, -, hparams, -⟩ := finish_frame s
  rw [State.ReadAt, hphase, hvar, hparams]
  exact ⟨hdone, hdoneIP, fun _ => h⟩

/-- The end of a measurement of at least 3 and at most 1000 ticks (R96). -/
theorem readAt_of_endBit {s t : State} {n : Nat} {b : Bool} (ht : t = endBit b s) (hp : s.phase = .bits)
    (hidx : s.bitIdx.toNat < nBits)
    (hleast : leastHandshake s.params s.curVar + 3 * s.bitIdx.toNat + 3 ≤ n)
    (hmost : n ≤ mostHandshake s.params s.curVar + 1000 * s.bitIdx.toNat + 1000) : t.ReadAt n := by
  have hcount := bitIdx_succ hidx
  obtain ⟨hlast, he⟩ | ⟨-, he⟩ := endBit_cases b s
  · rw [hcount, nBits] at hlast
    rw [ht, he]
    exact readAt_finish (by dsimp only; omega)
  · rw [ht, he]
    simp only [State.ReadAt, startBit_phase, hp, startBit_params, startBit_curVar, startBit_bitIdx, startBit_mt,
      startBit_msub, MSub.leastTicks, BitVec.ofNat_eq_ofNat, BitVec.toNat_ofNat] at hcount ⊢
    omega

/-! ### The ticks -/

/-- A measurement that goes on takes a tick for each move of MSUB (R90, R91). -/
theorem SubMove.leastTicks_le {l : Level} {s : State} {m : MSub} {p : BitVec 16} (h : SubMove l s m p) :
    m.leastTicks ≤ s.msub.leastTicks + 1 := by
  cases h with
  | skipLow hs | skipHigh hs | riseHigh hs | riseLow hs | widthHigh hs => simp [hs, MSub.leastTicks]

section rules

variable {s : State} {n : Nat} (h : s.Inv) (hat : s.ReadAt n)

include h hat

theorem readAt_holdTick (hp : s.phase = .hold) : (holdTick s).ReadAt (n + 1) := by
  have hc : s.ctr.toNat < tHold s.curVar := by simpa [State.counterInRange, hp] using h.counters
  obtain ⟨hle, -⟩ := le_ctrMax s.params s.curVar
  have hs := h.ctr_succ hc hle
  simp only [State.ReadAt, hp] at hat
  unfold holdTick
  dsimp only
  split
  · change n + 1 = tHold s.curVar + 0
    omega
  · simp only [State.ReadAt, hp]
    omega

theorem readAt_relTick (hp : s.phase = .rel) : (relTick s).ReadAt (n + 1) := by
  have hc : s.ctr.toNat < s.params.tRel := by simpa [State.counterInRange, hp] using h.counters
  obtain ⟨-, hle, -⟩ := le_ctrMax s.params s.curVar
  have hs := h.ctr_succ hc hle
  simp only [State.ReadAt, hp] at hat
  unfold relTick
  dsimp only
  split
  · change n + 1 = tHold s.curVar + s.params.tRel + 0
    omega
  · simp only [State.ReadAt, hp]
    omega

theorem readAt_wlowTick (hp : s.phase = .wlow) (l : Level) : (wlowTick l s).ReadAt (n + 1) := by
  have hc : s.ctr.toNat < s.params.tWlow := by simpa [State.counterInRange, hp] using h.counters
  obtain ⟨-, -, hle, -⟩ := le_ctrMax s.params s.curVar
  have hs := h.ctr_succ hc hle
  simp only [State.ReadAt, hp] at hat
  unfold wlowTick
  cases l with
  | low =>
    change tHold s.curVar + s.params.tRel + 1 + 0 ≤ n + 1 ∧
      n + 1 ≤ tHold s.curVar + s.params.tRel + s.params.tWlow + 0
    omega
  | high =>
    dsimp only
    split
    · exact readAt_fail _ (by decide) _
    · simp only [State.ReadAt, hp]
      omega

theorem readAt_whighTick (hp : s.phase = .whigh) (l : Level) : (whighTick l s).ReadAt (n + 1) := by
  have hc : s.ctr.toNat < s.params.tWhigh := by simpa [State.counterInRange, hp] using h.counters
  obtain ⟨-, -, -, hle⟩ := le_ctrMax s.params s.curVar
  have hs := h.ctr_succ hc hle
  simp only [State.ReadAt, hp] at hat
  unfold whighTick
  cases l with
  | low =>
    dsimp only
    split
    · exact readAt_fail _ (by decide) _
    · simp only [State.ReadAt, hp]
      omega
  | high =>
    change leastHandshake s.params s.curVar + 3 * 0 + 0 ≤ n + 1 ∧
      n + 1 ≤ mostHandshake s.params s.curVar + 1000 * 0 + 0 ∧ 0 ≤ 0
    unfold leastHandshake mostHandshake
    omega

theorem readAt_bitsTick (hp : s.phase = .bits) (l : Level) : (bitsTick l s).ReadAt (n + 1) := by
  obtain ⟨hmt, hidx⟩ : s.mt.toNat < tCeil ∧ s.bitIdx.toNat < nBits := by
    simpa [State.counterInRange, hp] using h.counters
  have hs := counter_succ hmt (by decide)
  simp only [State.ReadAt, hp] at hat
  obtain ⟨hleast, hmost, hsub⟩ := hat
  obtain ⟨m, p, hm, -, he⟩ | ⟨m, p, hm, hceil, he⟩ | ⟨hw, -, he⟩ := bitsTick_cases l s
  · have hlater := hm.leastTicks_le
    rw [he]
    simp only [State.ReadAt, hp]
    omega
  · rw [hs, tCeil] at hceil
    exact readAt_of_endBit he hp hidx (by dsimp only; omega) (by dsimp only; omega)
  · have hlt : s.mt.toNat < 1000 := hmt
    have htwo : 2 ≤ s.mt.toNat := by rwa [hw] at hsub
    exact readAt_of_endBit he hp hidx (by dsimp only; omega) (by dsimp only; omega)

end rules

/-- A tick of a read is one tick more since its start. -/
theorem readAt_tick {s : State} {n : Nat} (h : s.Inv) (hr : s.inReset = false) (hat : s.ReadAt n) (lv : Levels) :
    (tick lv s).ReadAt (n + 1) := by
  have hu := h.setLine hr (s.sample lv s.curPin)
  cases hp : s.phase with
  | idle =>
    rw [tick_of_idle lv hp]
    simp only [State.ReadAt, hp] at hat ⊢
    obtain ⟨hdone, hdoneIP, hleast⟩ := hat
    exact ⟨hdone, hdoneIP, fun herr => Nat.le_succ_of_le (hleast herr)⟩
  | hold => exact tick_of_hold lv hp ▸ readAt_holdTick hu hat hp
  | rel => exact tick_of_rel lv hp ▸ readAt_relTick hu hat hp
  | wlow => exact tick_of_wlow lv hp ▸ readAt_wlowTick hu hat hp _
  | whigh => exact tick_of_whigh lv hp ▸ readAt_whighTick hu hat hp _
  | bits => exact tick_of_bits lv hp ▸ readAt_bitsTick hu hat hp _

/-! ### The run -/

/-- Only a block out of reset runs a read (R154). -/
theorem State.Inv.running_not_inReset {s : State} (h : s.Inv) (hp : s.phase ≠ .idle) : s.inReset = false := by
  rw [Bool.eq_false_iff]
  exact fun hr => hp (congrArg State.phase (h.resetHeld hr))

/-- What no tick touches, no run of ticks touches. -/
theorem ticks_tickFrame (lvs : List Levels) (s : State) : TickFrame s (ticks lvs s) := by
  induction lvs generalizing s with
  | nil => exact .refl
  | cons lv lvs ih => exact (tick_frame lv s).trans (ih (tick lv s))

/-- A run of ticks keeps the invariant, and each of them is one more since the read's start. -/
theorem ticks_readAt {s : State} {n : Nat} (h : s.Inv) (hr : s.inReset = false) (hat : s.ReadAt n)
    (lvs : List Levels) : (ticks lvs s).Inv ∧ (ticks lvs s).ReadAt (n + lvs.length) := by
  induction lvs generalizing s n with
  | nil => exact ⟨h, hat⟩
  | cons lv lvs ih =>
    obtain ⟨-, -, -, -, hreset, -⟩ := tick_frame lv s
    rw [List.length_cons, add_comm lvs.length 1, ← add_assoc]
    exact ih (inv_tick h hr lv) (hreset.trans hr) (readAt_tick h hr hat lv)

/-- The bounds of the running counters leave a read no phase after its greatest time (R106). -/
theorem State.ReadAt.idle {s : State} {n : Nat} (hat : s.ReadAt n) (h : s.Inv)
    (hn : mostHandshake s.params s.curVar + 40 * 1000 ≤ n) : s.phase = .idle := by
  have hcounters := h.counters
  unfold State.ReadAt at hat
  unfold State.counterInRange at hcounters
  unfold mostHandshake at *
  cases hp : s.phase with
  | idle => rfl
  | bits =>
    simp only [hp, tCeil, nBits] at hat hcounters
    omega
  | hold | rel | wlow | whigh =>
    simp only [hp] at hat hcounters
    omega

/-- What the end of a read has signalled, and its least time (R106). -/
theorem State.ReadAt.ended {s : State} {n : Nat} (hat : s.ReadAt n) (hp : s.phase = .idle) :
    s.done = true ∧ s.doneIP = true ∧ (s.err = .none → leastHandshake s.params s.curVar + 3 * 40 ≤ n) := by
  rwa [State.ReadAt, hp] at hat

/-- Settles O57, from where the read is after its ticks. -/
theorem everyReadCompletesInBound : Obligations.EveryReadCompletesInBound := by
  unfold Obligations.EveryReadCompletesInBound
  intro s lvs h hp h0
  have hstart : s.ReadAt 0 := by
    rw [State.ReadAt, hp, h0]
    rfl
  obtain ⟨hinv, hat⟩ := ticks_readAt h (h.running_not_inReset (by simp [hp])) hstart lvs
  obtain ⟨⟨-, hvar, -⟩, -, -, hparams, -⟩ := ticks_tickFrame lvs s
  rw [zero_add] at hat
  constructor
  · intro hlen
    have hidle := hat.idle hinv (by rwa [hparams, hvar])
    obtain ⟨hdone, hdoneIP, -⟩ := hat.ended hidle
    exact ⟨hidle, hdone, hdoneIP⟩
  · intro hidle herr
    obtain ⟨-, -, hleast⟩ := hat.ended hidle
    rw [hparams, hvar] at hleast
    exact hleast herr

end Sys2Proof.Machine

/-! PROOF. The scale-and-unpack unit (42_scale_unit.md): what the conversion commands write and what every command
leaves, the scaled results of a read (R114, R118), and the floats of the unit's range (R110, R113). -/

namespace Sys2Proof.Machine

/-! ## The conversion commands -/

/-- An idle block accepts every command (R127). -/
theorem exec_of_idle {s : State} (hp : s.phase = .idle) (i : Instr) :
    exec i s = .next (acceptedEffect i s.clearStatus) := by
  rw [exec_eq_present, present_of_idle hp]

/-- UNPACK_T on an idle block (R116). -/
theorem exec_unpackT_of_idle {s : State} (hp : s.phase = .idle) (r : Half) : exec (.unpackT r) s =
    .next ((s.clearStatus.storeT (unpackSignedTenths r)).signalDone .none) := exec_of_idle hp _

/-- SCALE_H on an idle block (R117). -/
theorem exec_scaleH_of_idle {s : State} (hp : s.phase = .idle) (r : Half) : exec (.scaleH r) s =
    .next ((s.clearStatus.storeH (scaleHumidityTenths r)).signalDone .none) := exec_of_idle hp _

/-- Settles O22: the command stores the sign-and-magnitude reading, which is this number of the whole pattern. -/
theorem unpackTResult : Obligations.UnpackTResult := by
  unfold Obligations.UnpackTResult
  intro s r hp
  rw [exec_unpackT_of_idle hp, unpackSignedTenths_eq]
  rfl

/-- Settles O23: the command stores the two's-complement reading, which is this number of the whole pattern. -/
theorem scaleHResult : Obligations.ScaleHResult := by
  unfold Obligations.ScaleHResult
  intro s r hp
  rw [exec_scaleH_of_idle hp, scaleHumidityTenths_eq]
  rfl

/-- Settles O28: a conversion leaves the block idle, and what it writes depends on its pattern alone. -/
theorem conversionsAreIdempotent : Obligations.ConversionsAreIdempotent := by
  unfold Obligations.ConversionsAreIdempotent
  intro s t r hp
  refine ⟨fun h => ?_, fun h => ?_⟩
  · rw [unpackTResult s r hp] at h
    obtain rfl := Host.Outcome.next.inj h
    exact unpackTResult _ r hp
  · rw [scaleHResult s r hp] at h
    obtain rfl := Host.Outcome.next.inj h
    exact scaleHResult _ r hp

/-! ## What every command leaves -/

theorem SameRaw.refl (s : State) : SameRaw s s := ⟨rfl, rfl⟩

theorem SameScaledT.refl (s : State) : SameScaledT s s := ⟨rfl, rfl, rfl⟩

theorem SameScaledH.refl (s : State) : SameScaledH s s := ⟨rfl, rfl, rfl⟩

theorem SamePins.refl (s : State) : SamePins s s := ⟨rfl, rfl⟩

theorem SameSequencer.refl (s : State) : SameSequencer s s :=
  ⟨rfl, rfl, rfl, rfl, rfl, rfl, rfl, ⟨rfl, rfl, rfl⟩, rfl⟩

theorem SameSurroundings.refl (s : State) : SameSurroundings s s := ⟨rfl, rfl, rfl, rfl, rfl⟩

/-- No effect of a command, nor the rejection of one, writes the raw results, LINE, DONE_IE, the parameters or the
model's own fields, and none clears DONE_IP (R127). -/
theorem exec_keeps {i : Instr} {s t : State} (h : exec i s = .next t) :
    SameRaw s t ∧ t.line = s.line ∧ t.doneIE = s.doneIE ∧ SameSurroundings s t ∧
    (s.doneIP = true → t.doneIP = true) := by
  obtain ⟨-, rfl⟩ | ⟨-, rfl⟩ := exec_cases h
  · exact ⟨.refl s, rfl, rfl, .refl s, id⟩
  obtain ⟨e, he⟩ | ⟨imm, -, he⟩ | ⟨imm, -, he⟩ | ⟨op, pin, var, -, -, he⟩ := acceptedEffect_cases i s.clearStatus
  · exact he ▸ ⟨.refl s, rfl, rfl, .refl s, fun _ => rfl⟩
  · exact he ▸ ⟨.refl s, rfl, rfl, .refl s, fun _ => rfl⟩
  · exact he ▸ ⟨.refl s, rfl, rfl, .refl s, fun _ => rfl⟩
  · exact he ▸ ⟨.refl s, rfl, rfl, .refl s, id⟩

/-- Each half of the scaled results is written by its own conversion only (R123). -/
theorem exec_scaled {i : Instr} {s t : State} (h : exec i s = .next t) :
    ((∀ r, i ≠ .unpackT r) → SameScaledT s t) ∧ ((∀ r, i ≠ .scaleH r) → SameScaledH s t) := by
  obtain ⟨-, rfl⟩ | ⟨-, rfl⟩ := exec_cases h
  · exact ⟨fun _ => .refl s, fun _ => .refl s⟩
  obtain ⟨e, he⟩ | ⟨imm, hi, he⟩ | ⟨imm, hi, he⟩ | ⟨op, pin, var, -, -, he⟩ := acceptedEffect_cases i s.clearStatus
  · exact he ▸ ⟨fun _ => .refl s, fun _ => .refl s⟩
  · exact he ▸ ⟨fun hne => absurd hi (hne imm), fun _ => .refl s⟩
  · exact he ▸ ⟨fun _ => .refl s, fun hne => absurd hi (hne imm)⟩
  · exact he ▸ ⟨fun _ => .refl s, fun _ => .refl s⟩

/-- A command leaves the pins and the sequencer, or it is a read that starts and drives its own line (R81). -/
theorem exec_sequencer {i : Instr} {s t : State} (h : exec i s = .next t) :
    (SamePins s t ∧ SameSequencer s t) ∨
    (s.phase = .idle ∧ t.phase = .hold ∧
      ∃ pin var, (i = .readRaw pin var ∨ i = .readScaled pin var) ∧ SameOtherPads pin s t) := by
  obtain ⟨-, rfl⟩ | ⟨hp, rfl⟩ := exec_cases h
  · exact .inl ⟨.refl s, .refl s⟩
  obtain ⟨e, he⟩ | ⟨imm, -, he⟩ | ⟨imm, -, he⟩ | ⟨op, pin, var, hi, -, he⟩ := acceptedEffect_cases i s.clearStatus
  · exact he ▸ .inl ⟨.refl s, .refl s⟩
  · exact he ▸ .inl ⟨.refl s, .refl s⟩
  · exact he ▸ .inl ⟨.refl s, .refl s⟩
  · rw [he]
    exact .inr ⟨hp, rfl, pin, var, hi.imp And.left And.left, sameOtherPads_of_set rfl rfl⟩

/-- Settles O27, the two clauses on PHASE by whether the command is a read that starts. -/
theorem commandFrame : Obligations.CommandFrame := by
  unfold Obligations.CommandFrame
  intro i s t h
  obtain ⟨hraw, hline, hie, hsurroundings, hip⟩ := exec_keeps h
  obtain ⟨hT, hH⟩ := exec_scaled h
  refine ⟨hraw, hline, hie, hsurroundings, hip, hT, hH, ?_⟩
  obtain ⟨hpins, hphase, hrest⟩ | ⟨hidle, hhold, hread⟩ := exec_sequencer h
  · exact ⟨fun _ => ⟨hpins, hphase, hrest⟩, fun hne => absurd hphase hne⟩
  · refine ⟨fun heq => ?_, fun _ => ⟨hidle, hhold, hread⟩⟩
    rw [hidle, hhold] at heq
    cases heq

/-! ## The scaled results of a read -/

/-- Settles O43: both a fine read and the two conversions store the readings of the raw results. -/
theorem fineReadAgreesWithConversions : Obligations.FineReadAgreesWithConversions := by
  unfold Obligations.FineReadAgreesWithConversions
  intro s u v w hop hvar hvalid hu hv hw
  obtain ⟨hresults, -⟩ := finish_results s
  obtain ⟨-, -, hscaled⟩ := hresults hvalid
  obtain ⟨hT, hH⟩ := hscaled hop u
  rw [hvar] at hT hH
  rw [exec_unpackT_of_idle hu] at hv
  rw [exec_scaleH_of_idle hu] at hw
  cases hv
  cases hw
  exact ⟨hT, hH⟩

/-- A tick in BITS leaves the results and does not leave the block idle without error, or it counts the fortieth bit
(R97, R100). -/
theorem TickMove.results_or_lastBit {s t : State} (h : TickMove s t) (hs : s.phase = .bits) :
    (SameResults s t ∧ ¬ (t.phase = .idle ∧ t.err = .none)) ∨
    ((s.bitIdx + 1).toNat = nBits ∧ t.bitIdx = s.bitIdx + 1) := by
  cases h with
  | stays hp _ _ hres => exact .inl ⟨hres, by simp [hp, hs]⟩
  | releases hp => simp [hs] at hp
  | advances hp => simp [hs] at hp
  | fails herr _ _ _ hres =>
    refine .inl ⟨hres, ?_⟩
    rintro ⟨-, hnone⟩
    simp [hnone] at herr
  | completes _ hn hidx => exact .inr ⟨hn, hidx⟩

/-- A tick in BITS leaves the results and does not leave the block idle without error, or it is the end of a frame
that this read has received (R89, R97). -/
theorem tick_bits_results {s : State} (lv : Levels) (hp : s.phase = .bits) :
    (SameResults s (tick lv s) ∧ ¬ ((tick lv s).phase = .idle ∧ (tick lv s).err = .none)) ∨
    ∃ u, tick lv s = finish u ∧ SameLatched s u ∧ SameResults s u := by
  obtain hsame | ⟨hn, hidx⟩ := (tick_move lv s).results_or_lastBit hp
  · exact .inl hsame
  obtain hstays | ⟨b, m, p, he⟩ := tick_bits_cases lv hp
  · rw [hstays] at hidx
    simp at hidx
  · obtain ⟨-, hend⟩ | ⟨hne, -⟩ := endBit_cases b
      { s with line := s.sample lv s.curPin, mt := s.mt + 1, msub := m, pw := p }
    · exact .inr ⟨_, he.trans hend, ⟨rfl, rfl, rfl⟩, ⟨rfl, rfl⟩, ⟨rfl, rfl, rfl⟩, rfl, rfl, rfl⟩
    · exact absurd hn hne

theorem SameScaledT.trans {s t u : State} : SameScaledT s t → SameScaledT t u → SameScaledT s u
  | ⟨hscl, hdiv, hflt⟩, ⟨hscl', hdiv', hflt'⟩ => ⟨hscl'.trans hscl, hdiv'.trans hdiv, hflt'.trans hflt⟩

theorem SameScaledH.trans {s t u : State} : SameScaledH s t → SameScaledH t u → SameScaledH s u
  | ⟨hscl, hdiv, hflt⟩, ⟨hscl', hdiv', hflt'⟩ => ⟨hscl'.trans hscl, hdiv'.trans hdiv, hflt'.trans hflt⟩

/-- The end of a READ_RAW leaves the scaled results, of a valid frame and of any other (R100, R114). -/
theorem finish_of_readRaw {s : State} (hop : s.curOp = .readRaw) :
    SameScaledT s (finish s) ∧ SameScaledH s (finish s) := by
  obtain ⟨hvalid, hinvalid⟩ := finish_results s
  cases hv : (Frame.ofShift s.shift).valid with
  | true =>
    obtain ⟨-, hraw, -⟩ := hvalid hv
    exact hraw hop
  | false => exact (hinvalid hv).2

/-- The end of a READ_SCALED without error leaves the scaled results of the raw results it writes (R114). -/
theorem finish_of_readScaled {s : State} (hop : s.curOp = .readScaled) (herr : (finish s).err = .none) (u : State) :
    SameScaledT (u.scaleResults s.curVar (finish s).rawT (finish s).rawH) (finish s) ∧
    SameScaledH (u.scaleResults s.curVar (finish s).rawT (finish s).rawH) (finish s) := by
  obtain ⟨hresults, -⟩ := finish_results s
  obtain ⟨-, -, -, hends, -⟩ := finish_ends s
  have hvalid : (Frame.ofShift s.shift).valid = true := by
    by_contra hv
    rw [if_neg hv, herr] at hends
    cases hends
  obtain ⟨-, -, hscaled⟩ := hresults hvalid
  exact hscaled hop u

/-- Settles O41: the unit's readings are these numbers of the whole patterns, and the tick that ends a read is the end
of its frame. -/
theorem scaleResultsByVariant : Obligations.ScaleResultsByVariant := by
  unfold Obligations.ScaleResultsByVariant
  refine ⟨fun s rawT rawH => ⟨?_, rfl⟩, fun s lv hp => ?_⟩
  · rw [State.scaleResults, unpackSignedTenths_eq, scaleHumidityTenths_eq]
    rfl
  · intro t
    obtain ⟨⟨-, hsame⟩, hends⟩ | ⟨u, ht, ⟨-, hvar, hop⟩, -, hsame⟩ := tick_bits_results lv hp
    · exact ⟨fun _ hidle herr => absurd ⟨hidle, herr⟩ hends, fun _ => hsame⟩
    · obtain ⟨hT, hH⟩ := hsame
      have ht : t = finish u := ht
      rw [ht, ← hop, ← hvar]
      refine ⟨fun hu _ herr => finish_of_readScaled hu herr s, fun hu => ?_⟩
      obtain ⟨hT', hH'⟩ := finish_of_readRaw hu
      exact ⟨hT.trans hT', hH.trans hH'⟩

/-! ## The floats of the unit's range -/

/-- The unit's quotients lie in the normal range of the format (R113). -/
theorem floorLog2_unit_normal {n : Int} {d : Nat} (hn : n ≠ 0) (hlo : -32768 ≤ n) (hhi : n ≤ 65535)
    (hd : d = 1 ∨ d = 10) : 0 < d ∧ -126 ≤ floorLog2 n.natAbs d ∧ floorLog2 n.natAbs d ≤ 126 := by
  obtain ⟨hel, heh⟩ := floorLog2_unit_range (Int.natAbs_pos.2 hn) (by omega) hd
  omega

/-- Settles O46: the significand's hidden bit makes the exponent field at least 1. -/
theorem floatIsZeroOrNormal : Obligations.FloatIsZeroOrNormal := by
  unfold Obligations.FloatIsZeroOrNormal
  intro n d hlo hhi hd
  by_cases hn : n = 0
  · exact .inl ⟨hn, by rw [hn, f32_zero]⟩
  · obtain ⟨hd', hel, heh⟩ := floorLog2_unit_normal hn hlo hhi hd
    obtain ⟨hsig, hsig'⟩ := significand_bounds (Int.natAbs_pos.2 hn) hd'
    have hbits := f32_toNat_of_normal hn hd' hel heh
    simp only [decide_eq_true_eq] at hbits
    refine .inr ⟨hn, and_assoc.1 ⟨?_, ?_⟩⟩
    · rw [BitVec.extractLsb'_toNat, hbits, Nat.shiftRight_eq_div_pow]
      split <;> omega
    · rw [BitVec.msb_eq_decide, hbits, decide_eq_true_eq]
      split <;> omega

/-- A whole number is rounded to itself. -/
theorem IsRoundHalfEven.eq_of_natCast {m k : Nat} (h : IsRoundHalfEven m k) : m = k := by
  obtain ⟨hle, -⟩ := h.nearest_int k
  rw [Int.cast_natCast, sub_self, abs_zero, abs_nonpos_iff, sub_eq_zero] at hle
  exact_mod_cast hle

/-- Up to the exponent 23 the units divide 1, so the significand of a whole number is exact. -/
theorem significand_one_exact {a : Nat} {e : Int} (he : e ≤ 23) :
    (significand a 1 e : ℚ) = a / (1 : Nat) * 2 ^ (23 - e) := by
  obtain ⟨k, hk⟩ := Int.eq_ofNat_of_zero_le (show 0 ≤ 23 - e by omega)
  have hunits : (a / (1 : Nat) * 2 ^ (23 - e) : ℚ) = (a * 2 ^ k : Nat) := by
    rw [hk, zpow_natCast]
    push_cast
    ring
  have hround := significand_isRoundHalfEven a one_pos e
  rw [hunits] at hround ⊢
  rw [hround.eq_of_natCast]

/-- Settles O47: the numerator needs no more bits than the significand has. -/
theorem wholeUnitsFloatIsExact : Obligations.WholeUnitsFloatIsExact := by
  unfold Obligations.WholeUnitsFloatIsExact
  intro n hlo hhi
  by_cases hn : n = 0
  · rw [hn, f32_zero, floatValue_zero, Int.cast_zero]
  · obtain ⟨-, hel, heh⟩ := floorLog2_unit_normal hn hlo hhi (.inl rfl)
    obtain ⟨-, heh'⟩ := floorLog2_unit_range (a := n.natAbs) (Int.natAbs_pos.2 hn) (by omega) (.inl rfl)
    rw [floatValue_f32 hn one_pos hel heh, significand_one_exact (by omega), ← quotient_eq_units hel, Nat.cast_one,
      div_one]

/-! ## The unit's table -/

/-- Settles O42: each reading and each pattern is computed. -/
theorem unitGivesTableValues : Obligations.UnitGivesTableValues := by
  unfold Obligations.UnitGivesTableValues
  decide

end Sys2Proof.Machine

/-! PROOF. The control of the block (43_control.md): what a CMD write of each kind of word does (R127, R128, R130), the
commands that only complete or are rejected (R128, R129), and the order of the phases (R135). -/

namespace Sys2Proof

/-! ## The words that are ILLEGAL -/

/-- A command's word is in the command's row of the opcode table (R68). -/
theorem row_covers_encode (i : Instr) : i.row.covers (encode i) = true := by
  cases i with
  | nop => exact (Laws.EncodeInOwnRow.nop _).2 rfl
  | readRaw pin var => exact (Laws.EncodeInOwnRow.readRaw pin var _).2 rfl
  | readScaled pin var => exact (Laws.EncodeInOwnRow.readScaled pin var _).2 rfl
  | unpackT imm => exact (Laws.EncodeInOwnRow.unpackT imm _).2 rfl
  | scaleH imm => exact (Laws.EncodeInOwnRow.scaleH imm _).2 rfl

theorem encode_injective {i j : Instr} (h : encode i = encode j) : i = j :=
  Except.ok.inj ((decode_encode i).symm.trans (decode_of_eq_encode h))

/-- `classify` calls ILLEGAL every word but those of the well-formed commands (R68, R69). -/
theorem classify_error_of_forall_ne {p : Params} {v : Word}
    (h : ∀ i : Instr, v = encode i → i.wellFormed p = false) : ∃ e, classify p v = .error e := by
  cases hc : classify p v with
  | error e => exact ⟨e, rfl⟩
  | ok i =>
    obtain ⟨hv, hwf⟩ := classify_eq_ok_iff.1 hc
    exact absurd hwf (by simp [h i hv])

/-- A word in no row of the opcode table is ILLEGAL (R130). -/
theorem classify_error_of_uncovered {v : Word} (h : ∀ i : Instr, i.row.covers v = false) (p : Params) :
    ∃ e, classify p v = .error e :=
  classify_error_of_forall_ne fun i hv => absurd (row_covers_encode i) (by simp [← hv, h i])

/-- The word of a command that is not well-formed is ILLEGAL (R66, R130). -/
theorem classify_error_of_not_wellFormed {p : Params} {i : Instr} (h : i.wellFormed p = false) :
    ∃ e, classify p (encode i) = .error e :=
  classify_error_of_forall_ne fun _ hv => encode_injective hv ▸ h

end Sys2Proof

namespace Sys2Proof.Machine

/-! ## A CMD write -/

section writeCmd

variable {v : Word} {s : State}

theorem writeCmd_of_busy (hp : s.phase ≠ .idle) : writeCmd v s = .next s.rejectWrite := if_pos (busy_iff.2 hp)

theorem writeCmd_of_command {i : Instr} (hp : s.phase = .idle) (hc : classify s.params v = .ok i) :
    writeCmd v s = exec i s := by
  simp [writeCmd, not_busy_iff.2 hp, hc]

theorem writeCmd_of_illegal (hp : s.phase = .idle) (hc : ∃ e, classify s.params v = .error e) :
    writeCmd v s = .next s.clearStatus.illegal := by
  obtain ⟨e, hc⟩ := hc
  simp [writeCmd, not_busy_iff.2 hp, hc, execIllegal, present_of_idle hp]

/-- A step whose input is a CMD write does it, out of reset (R127, R154). -/
theorem step_of_cmdWrite {rest : List Input} (hl : s.params.legal = true) (hr : s.inReset = false)
    (hi : s.inputs = .host (.write s.params.regBase v.lanes) :: rest) :
    step s = writeCmd v { s with inputs := rest, reply := some .written } :=
  (step_of_write (off := 0) (by decide) rfl hl hi).trans
    (writeReg_cmd (s := { s with inputs := rest, reply := some .written }) hr v)

end writeCmd

/-- Settles O9: the word is classified as the command it decodes to. -/
theorem stepRunsWellFormedCommand : Obligations.StepRunsWellFormedCommand := by
  unfold Obligations.StepRunsWellFormedCommand
  intro s rest v i hl hr hp hi hdecode hwf
  have hc : classify s.params v = .ok i := classify_eq_ok_iff.2 ⟨eq_encode_of_decode hdecode, hwf⟩
  rw [step_of_cmdWrite hl hr hi]
  exact writeCmd_of_command (s := { s with inputs := rest, reply := some .written }) hp hc

/-- Settles O11: the write of CMD is rejected before its word is classified. -/
theorem commandWriteWhileBusyIsRejected : Obligations.CommandWriteWhileBusyIsRejected := by
  unfold Obligations.CommandWriteWhileBusyIsRejected
  intro s rest v hl hr hp hi
  rw [step_of_cmdWrite hl hr hi]
  exact writeCmd_of_busy (s := { s with inputs := rest, reply := some .written }) hp

/-- Settles O12: both kinds of word are ILLEGAL to `classify`, a read of a missing line as a command that is not
well-formed. -/
theorem illegalWordCompletesWithError : Obligations.IllegalWordCompletesWithError := by
  unfold Obligations.IllegalWordCompletesWithError
  intro s rest v hl hr hp hi hv
  have hc : ∃ e, classify s.params v = .error e := by
    obtain hrows | ⟨pin, var, rfl | rfl, hpin⟩ := hv
    · exact classify_error_of_uncovered hrows _
    · exact classify_error_of_not_wellFormed (decide_eq_false (Nat.not_lt.2 hpin))
    · exact classify_error_of_not_wellFormed (decide_eq_false (Nat.not_lt.2 hpin))
  rw [step_of_cmdWrite hl hr hi]
  exact writeCmd_of_illegal (s := { s with inputs := rest, reply := some .written }) hp hc

/-! ## A command at exec -/

/-- Settles O21: NOP is accepted and its effect is to complete. -/
theorem nopOnlyCompletes : Obligations.NopOnlyCompletes :=
  fun _ hp => exec_of_idle hp .nop

/-- Settles O26: every command is presented the same way, and a busy block rejects what is presented. -/
theorem everyCommandWhileBusyOnlySetsRej : Obligations.EveryCommandWhileBusyOnlySetsRej :=
  fun i s hp => (exec_eq_present i s).trans (present_of_busy hp)

/-! ## The order of the phases -/

/-- An accepted command that changes PHASE is a read that starts (R81). -/
theorem acceptedEffect_starts {i : Instr} {s : State} (h : (acceptedEffect i s).phase ≠ s.phase) :
    (acceptedEffect i s).phase = .hold := by
  obtain ⟨e, he⟩ | ⟨imm, -, he⟩ | ⟨imm, -, he⟩ | ⟨op, pin, var, -, -, he⟩ := acceptedEffect_cases i s
  · exact absurd (he ▸ rfl) h
  · exact absurd (he ▸ rfl) h
  · exact absurd (he ▸ rfl) h
  · exact he ▸ rfl

/-- A tick that changes PHASE goes on to the next phase, or ends the read with DONE set (R84 to R87, R101, R102). -/
theorem TickMove.phase_changed {s t : State} (h : TickMove s t) (hne : t.phase ≠ s.phase) :
    (s.phase = .hold ∧ t.phase = .rel) ∨ (s.phase = .rel ∧ t.phase = .wlow) ∨
    (s.phase = .wlow ∧ t.phase = .whigh) ∨ (s.phase = .whigh ∧ t.phase = .bits) ∨
    ((s.phase = .wlow ∨ s.phase = .whigh ∨ s.phase = .bits) ∧ t.phase = .idle ∧ t.done = true) := by
  cases h with
  | stays hp => exact absurd hp hne
  | releases hs ht => exact .inl ⟨hs, ht⟩
  | advances hp =>
    obtain hp | hp | hp := hp
    · exact .inr (.inl hp)
    · exact .inr (.inr (.inl hp))
    · exact .inr (.inr (.inr (.inl hp)))
  | fails hs hidle hdone =>
    exact .inr (.inr (.inr (.inr ⟨hs.imp And.left (Or.imp And.left And.left), hidle, hdone⟩)))
  | completes hs _ _ hidle _ hdone => exact .inr (.inr (.inr (.inr ⟨.inr (.inr hs), hidle, hdone⟩)))

/-- Settles O52: of the moves of a step only an accepted read, a tick and an asserted reset change PHASE. -/
theorem phasesFollowTheirOrder : Obligations.PhasesFollowTheirOrder := by
  unfold Obligations.PhasesFollowTheirOrder
  intro s t hstep hne
  obtain ⟨-, i, d, r, hb⟩ := step_cases hstep
  cases hb with
  | accepted v j _ _ hidle => exact .inl ⟨hidle, acceptedEffect_starts hne⟩
  | ticked lv =>
    have hm := (tick_move lv _).phase_changed hne
    exact .inr (hm.imp_right (Or.imp_right (Or.imp_right (Or.imp_right .inl))))
  | resetOn hinp => exact .inr (.inr (.inr (.inr (.inr (.inr ⟨rfl, hinp⟩)))))
  | replied | heldTick | rejected | illegal | intEn | intPend | resetOff => exact absurd rfl hne

end Sys2Proof.Machine

/-! PROOF. The errors of a read and the results (60_exceptions.md): where each error is raised and at which tick (R137
to R139), and when a result register changes (R102, R143). -/

namespace Sys2Proof.Machine

/-- The block as the end of a command leaves it, with `e` in ERR (R40, R101, R102). -/
def State.EndedWith (e : ErrKind) (s : State) : Prop :=
  s.phase = .idle ∧ s.err = e ∧ s.done = true ∧ s.doneIP = true

/-! ## The step that raises an error -/

/-- An accepted command leaves no error of a read (R127, R129, R130). -/
theorem acceptedEffect_err {s : State} (h : s.err = .none) (i : Instr) :
    (acceptedEffect i s).err = .none ∨ (acceptedEffect i s).err = .illegalCmd := by
  have read (op : ReadOp) (pin : PinNo) (var : Variant) :
      (s.requestRead op pin var).err = .none ∨ (s.requestRead op pin var).err = .illegalCmd := by
    obtain ⟨-, e⟩ | ⟨-, e⟩ := requestRead_cases op pin var s
    · exact .inl (e ▸ h)
    · exact .inr (e ▸ rfl)
  cases i with
  | readRaw pin var | readScaled pin var => exact read _ pin var
  | nop | unpackT | scaleH => exact .inl rfl

/-- A step raises an error other than ILLEGAL_CMD only by a tick (R136). -/
theorem step_raises_by_tick {s t : State} (hstep : step s = .next t) (hne : s.err ≠ t.err) (hnone : t.err ≠ .none)
    (hillegal : t.err ≠ .illegalCmd) : (∃ lv, (nextInput s).1 = .tick lv) ∧ TickMove s t := by
  obtain ⟨-, i, d, r, hb⟩ := step_cases hstep
  cases hb with
  | accepted v j =>
    obtain he | he := acceptedEffect_err (s := State.clearStatus { s with inputs := i, draws := d, reply := r }) rfl j
    · exact absurd he hnone
    · exact absurd he hillegal
  | illegal => exact absurd rfl hillegal
  | ticked lv hinp =>
    exact ⟨⟨lv, hinp⟩, (tick_move lv _).congr rfl ⟨rfl, rfl, rfl⟩ ⟨rfl, rfl⟩
      ⟨⟨rfl, rfl⟩, ⟨rfl, rfl, rfl⟩, rfl, rfl, rfl⟩ rfl rfl⟩
  | resetOn => exact absurd rfl hnone
  | replied | heldTick | rejected | intEn | intPend | resetOff => exact absurd rfl hne

/-- Each error of a read is raised in its own phase, ends the read and leaves the results (R102, R137 to R139). -/
theorem TickMove.raises {s t : State} (h : TickMove s t) (hne : s.err ≠ t.err) (hnone : t.err ≠ .none) :
    (t.err = .noResponse → s.phase = .wlow) ∧ (t.err = .malformedHandshake → s.phase = .whigh) ∧
    (t.err = .checksumMismatch →
      s.phase = .bits ∧ (s.bitIdx + 1).toNat = nBits ∧ t.bitIdx = s.bitIdx + 1) ∧
    t.phase = .idle ∧ SameResults s t := by
  cases h with
  | stays _ hst | releases _ _ hst | advances _ hst =>
    obtain ⟨-, herr, -⟩ := hst
    exact absurd herr.symm hne
  | fails herr hidle _ _ hres =>
    obtain ⟨hp, he⟩ | ⟨hp, he⟩ | ⟨hp, he, hlast, hcount⟩ := herr
    · simp [hp, he, hidle, hres]
    · simp [hp, he, hidle, hres]
    · exact ⟨by simp [he], by simp [he], fun _ => ⟨hp, hlast, hcount⟩, hidle, hres⟩
  | completes _ _ _ _ herr => exact absurd herr hnone

/-- Settles O50: the tick that raises it counts the fortieth bit and fails the read. -/
theorem checksumMismatchComesAtLastBit : Obligations.ChecksumMismatchComesAtLastBit := by
  unfold Obligations.ChecksumMismatchComesAtLastBit
  intro s t _ hstep hs ht
  obtain ⟨hinput, hmove⟩ := step_raises_by_tick hstep (ht ▸ hs) (by simp [ht]) (by simp [ht])
  obtain ⟨-, -, hbits, hidle, hres⟩ := hmove.raises (ht ▸ hs) (by simp [ht])
  obtain ⟨hp, hlast, hcount⟩ := hbits ht
  have hlast : s.bitIdx + 1 = 40 := BitVec.eq_of_toNat_eq hlast
  exact ⟨hp, by bv_omega, hcount.trans hlast, hidle, hinput, hres⟩

/-! ## The results -/

theorem SameResults.refl (s : State) : SameResults s s := ⟨.refl s, .refl s, .refl s⟩

/-- Of the accepted commands only the conversions write results, and they complete at once (R116, R117). -/
theorem acceptedEffect_results {s : State} (hp : s.phase = .idle) (i : Instr) :
    SameResults s (acceptedEffect i s) ∨ (acceptedEffect i s).EndedWith .none := by
  obtain ⟨e, he⟩ | ⟨imm, -, he⟩ | ⟨imm, -, he⟩ | ⟨op, pin, var, -, -, he⟩ := acceptedEffect_cases i s
  · exact he ▸ .inl (.refl s)
  · exact he ▸ .inr ⟨hp, rfl, rfl, rfl⟩
  · exact he ▸ .inr ⟨hp, rfl, rfl, rfl⟩
  · exact he ▸ .inl (.refl s)

/-- A tick writes results only where it completes the read (R101, R102). -/
theorem TickMove.results {s t : State} (h : TickMove s t) : SameResults s t ∨ t.EndedWith .none := by
  cases h with
  | stays _ _ _ hres | releases _ _ _ hres | advances _ _ _ hres | fails _ _ _ _ hres => exact .inl hres
  | completes _ _ _ hidle herr hdone hip => exact .inr ⟨hidle, herr, hdone, hip⟩

/-- A step writes results only by reset or where a command completes without error, out of reset (R143). -/
theorem BlockStep.results {inp : Input} {u t : State} (hb : BlockStep inp u t) :
    SameResults u t ∨ t = u.assertReset ∨ (t.EndedWith .none ∧ u.inReset = false) := by
  cases hb with
  | accepted v i _ hr hp =>
    exact (acceptedEffect_results (s := u.clearStatus) hp i).imp_right fun h => .inr ⟨h, hr⟩
  | ticked lv _ hr => exact (tick_move lv u).results.imp_right fun h => .inr ⟨h, hr⟩
  | resetOn => exact .inr (.inl rfl)
  | replied | heldTick | rejected | illegal | intEn | intPend | resetOff => exact .inl (.refl u)

/-- Settles O51, from what each move of a step does to the results. -/
theorem resultsChangeOnlyAtSuccess : Obligations.ResultsChangeOnlyAtSuccess := by
  unfold Obligations.ResultsChangeOnlyAtSuccess
  intro s t hstep hne
  obtain ⟨-, i, d, r, hb⟩ := step_cases hstep
  obtain hsame | rfl | ⟨⟨hidle, herr, hdone, hip⟩, hr⟩ := hb.results
  · exact absurd hsame hne
  · exact .inl ⟨rfl, rfl⟩
  · exact .inr ⟨hidle, herr, hdone, hip, hr⟩

/-! ## The stages of a read

A tick leaves a phase of the read only for a later one, IDLE being the last; so once a window is over, no later tick of
the run is in it. -/

/-- The place of a phase in the order of a read, IDLE at its end (R135). -/
def Phase.stage : Phase → Nat
  | .hold => 0
  | .rel => 1
  | .wlow => 2
  | .whigh => 3
  | .bits => 4
  | .idle => 5

theorem Phase.stage_le_wlow {ph : Phase} : ph.stage ≤ 2 ↔ ph = .hold ∨ ph = .rel ∨ ph = .wlow := by
  cases ph <;> simp [Phase.stage]

/-- A tick goes back to no phase of the read, and from one before WLOW it goes no further than WLOW (R84, R85, R135). -/
theorem TickMove.stage {s t : State} (h : TickMove s t) :
    s.phase.stage ≤ t.phase.stage ∧ (s.phase.stage < 2 → t.phase.stage ≤ 2) := by
  cases h with
  | stays hp => rw [hp]; exact ⟨le_rfl, Nat.le_of_lt⟩
  | releases hs ht => rw [hs, ht]; decide
  | advances hp => obtain ⟨hs, ht⟩ | ⟨hs, ht⟩ | ⟨hs, ht⟩ := hp <;> rw [hs, ht] <;> decide
  | fails hs ht => obtain ⟨hs, -⟩ | ⟨hs, -⟩ | ⟨hs, -⟩ := hs <;> rw [hs, ht] <;> decide
  | completes hs _ _ ht => rw [hs, ht]; decide

theorem ticks_stage_le (lvs : List Levels) (s : State) : s.phase.stage ≤ (ticks lvs s).phase.stage := by
  induction lvs generalizing s with
  | nil => exact le_rfl
  | cons lv lvs ih =>
    obtain ⟨hle, -⟩ := (tick_move lv s).stage
    exact hle.trans (ih (tick lv s))

/-- After HOLD the line is released, and its sample is the level the environment gives it (R26, R104). -/
theorem State.Inv.sample_released {s : State} (h : s.Inv) (hp : s.phase ≠ .hold) (lv : Levels) :
    s.sample lv s.curPin = lv[s.curPin.toNat]'s.curPin.isLt :=
  sample_of_input lv (h.pad_released (by simp [hp])).1

/-- A run of ticks keeps the invariant. -/
theorem inv_ticks {s : State} (h : s.Inv) (hr : s.inReset = false) (lvs : List Levels) : (ticks lvs s).Inv := by
  induction lvs generalizing s with
  | nil => exact h
  | cons lv lvs ih =>
    obtain ⟨-, -, -, -, hreset, -⟩ := tick_frame lv s
    exact ih (inv_tick h hr lv) (hreset.trans hr)

/-- The line sampled after a run of ticks is that of the run's start (R21). -/
theorem ticks_sample {s : State} {lvs : List Levels} (h : (ticks lvs s).Inv) (hp : (ticks lvs s).phase ≠ .hold)
    (lv : Levels) : (ticks lvs s).sample lv (ticks lvs s).curPin = lv[s.curPin.toNat]'s.curPin.isLt := by
  obtain ⟨⟨hpin, -⟩, -⟩ := ticks_tickFrame lvs s
  rw [h.sample_released hp]
  simp only [hpin]

/-! ## The first window -/

/-- A high in WLOW leaves the window open, or closes it with NO_RESPONSE (R86). -/
theorem tick_wlow_of_high {s : State} (hp : s.phase = .wlow) {lv : Levels} (hl : s.sample lv s.curPin = .high) :
    ((s.ctr + 1).toNat ≠ s.params.tWlow ∧ (tick lv s).phase = .wlow) ∨
    ((s.ctr + 1).toNat = s.params.tWlow ∧ (tick lv s).EndedWith .noResponse) := by
  rw [tick_of_wlow lv hp, hl]
  unfold wlowTick
  dsimp only
  split
  · next hlast => exact .inr ⟨hlast, rfl, rfl, rfl, rfl⟩
  · next hopen => exact .inl ⟨hopen, hp⟩

/-- The tick that raises NO_RESPONSE is one of WLOW, samples a high and ends the read (R86, R137). -/
theorem tick_raises_noResponse {s : State} {lv : Levels} (hs : s.err ≠ .noResponse)
    (ht : (tick lv s).err = .noResponse) :
    s.phase = .wlow ∧ s.sample lv s.curPin = .high ∧ (tick lv s).phase = .idle := by
  obtain ⟨hwlow, -, -, hidle, -⟩ := (tick_move lv s).raises (ht ▸ hs) (by simp [ht])
  have hp := hwlow ht
  refine ⟨hp, ?_, hidle⟩
  cases hl : s.sample lv s.curPin with
  | high => rfl
  | low =>
    rw [tick_wlow_of_low hp hl] at hidle
    cases hidle

/-- The ticks of a read before WLOW (R84, R85). -/
def beforeWlow (s : State) : Nat := tHold s.curVar + s.params.tRel

/-- The samples of line `p` are high from tick `b` on, the first of them being that of tick `c`. -/
def HighFrom (p : PinNo) (b c : Nat) (lvs : List Levels) : Prop :=
  ∀ (j : Nat) (h : j < lvs.length), b ≤ c + j → (lvs[j])[p.toNat]'p.isLt = .high

theorem highFrom_append_singleton {p : PinNo} {b c : Nat} {lvs : List Levels} {lv : Levels} :
    HighFrom p b c (lvs ++ [lv]) ↔
      HighFrom p b c lvs ∧ (b ≤ c + lvs.length → lv[p.toNat]'p.isLt = .high) := by
  constructor
  · intro h
    refine ⟨fun j hj hb => ?_, fun hb => ?_⟩
    · have hlevel := h j (by simp; omega) hb
      rwa [List.getElem_append_left hj] at hlevel
    · simpa using h lvs.length (by simp) hb
  · rintro ⟨hinit, hlast⟩ j hj hb
    rw [List.length_append, List.length_singleton] at hj
    obtain hlt | rfl := Nat.lt_succ_iff_lt_or_eq.1 hj
    · simpa [List.getElem_append_left hlt] using hinit j hlt hb
    · simpa using hlast hb

theorem HighFrom.take {p : PinNo} {b c : Nat} {lvs : List Levels} (h : HighFrom p b c lvs) (k : Nat) :
    HighFrom p b c (lvs.take k) := fun j hj hb => by
  rw [List.getElem_take]
  exact h j _ hb

/-- The first window has not passed after a tick exactly if it had not before, the tick is not its last, and its sample
is high if it is one of WLOW (R84 to R86). -/
theorem tick_firstWindow_iff {s : State} {n : Nat} (h : s.Inv) (hat : s.ReadAt n) (lv : Levels) :
    (tick lv s).phase.stage ≤ 2 ↔ s.phase.stage ≤ 2 ∧ n + 1 < beforeWlow s + s.params.tWlow ∧
      (beforeWlow s ≤ n → lv[s.curPin.toNat]'s.curPin.isLt = .high) := by
  obtain ⟨hmono, hnext⟩ := (tick_move lv s).stage
  have hcounters := h.counters
  obtain ⟨-, ⟨hwlow, -⟩, -⟩ := legal_iff.1 h.legal
  unfold State.ReadAt at hat
  unfold State.counterInRange at hcounters
  unfold beforeWlow
  cases hp : s.phase with
  | hold | rel =>
    simp only [hp] at hat hcounters hnext
    exact iff_of_true (hnext (by decide)) ⟨by decide, by omega, fun hb => absurd hb (by omega)⟩
  | wlow =>
    simp only [hp] at hat hcounters
    obtain ⟨-, -, hle, -⟩ := le_ctrMax s.params s.curVar
    have hsucc := h.ctr_succ hcounters hle
    rw [← h.sample_released (by simp [hp])]
    cases hl : s.sample lv s.curPin with
    | low =>
      have hpassed : ¬ (tick lv s).phase.stage ≤ 2 := by
        rw [tick_wlow_of_low hp hl]
        exact Nat.not_succ_le_self 2
      exact iff_of_false hpassed fun ⟨_, _, hhigh⟩ => absurd (hhigh (by omega)) (by decide)
    | high =>
      obtain ⟨hopen, hphase⟩ | ⟨hlast, hphase, -⟩ := tick_wlow_of_high hp hl
      · rw [hphase]
        exact iff_of_true (by decide) ⟨by decide, by omega, fun _ => rfl⟩
      · rw [hphase]
        exact iff_of_false (by decide) (by omega)
  | whigh | bits | idle =>
    rw [hp] at hmono
    exact iff_of_false (fun hle => absurd (hmono.trans hle) (by decide)) fun ⟨hle, _⟩ => absurd hle (by decide)

/-- A read whose first window has not passed is in it from tick T_HOLD + T_REL on (R84, R85). -/
theorem State.ReadAt.wlow {s : State} {n : Nat} (hat : s.ReadAt n) (h : s.Inv) (hopen : s.phase.stage ≤ 2)
    (hn : beforeWlow s ≤ n) : s.phase = .wlow := by
  have hcounters := h.counters
  unfold State.ReadAt at hat
  unfold State.counterInRange at hcounters
  unfold beforeWlow at hn
  obtain hp | hp | hp := Phase.stage_le_wlow.1 hopen
  · simp only [hp] at hat hcounters
    omega
  · simp only [hp] at hat hcounters
    omega
  · exact hp

section fromHold

variable {s : State} (h : s.Inv) (hp : s.phase = .hold)

include h hp

/-- After ticks from HOLD the read is as many ticks further, in the same schedule (R82). -/
theorem ticks_fromHold (lvs : List Levels) :
    (ticks lvs s).Inv ∧ (ticks lvs s).ReadAt (s.ctr.toNat + lvs.length) ∧
    beforeWlow (ticks lvs s) = beforeWlow s ∧ (ticks lvs s).params = s.params := by
  have hstart : s.ReadAt s.ctr.toNat := by rw [State.ReadAt, hp]
  obtain ⟨hinv, hat⟩ := ticks_readAt h (h.running_not_inReset (by simp [hp])) hstart lvs
  obtain ⟨⟨-, hvar, -⟩, -, -, hparams, -⟩ := ticks_tickFrame lvs s
  exact ⟨hinv, hat, by rw [beforeWlow, beforeWlow, hvar, hparams], hparams⟩

/-- After ticks from HOLD the first window has not passed exactly if they are fewer than the ticks of HOLD, REL and WLOW
and every sample of WLOW was high (R84 to R86). -/
theorem ticks_firstWindow_iff (lvs : List Levels) : (ticks lvs s).phase.stage ≤ 2 ↔
    s.ctr.toNat + lvs.length < beforeWlow s + s.params.tWlow ∧
    HighFrom s.curPin (beforeWlow s) s.ctr.toNat lvs := by
  induction lvs using List.reverseRecOn with
  | nil =>
    have hc : s.ctr.toNat < tHold s.curVar := by simpa [State.counterInRange, hp] using h.counters
    rw [ticks_nil, hp]
    exact iff_of_true (by decide) ⟨by unfold beforeWlow; simp; omega, fun j hj => absurd hj (Nat.not_lt_zero j)⟩
  | append_singleton lvs lv ih =>
    obtain ⟨hinv, hat, hbefore, hparams⟩ := ticks_fromHold h hp lvs
    obtain ⟨⟨hpin, -⟩, -⟩ := ticks_tickFrame lvs s
    have hlast := tick_firstWindow_iff hinv hat lv
    simp only [hbefore, hparams, hpin] at hlast
    rw [ticks_append, ticks_cons, ticks_nil, hlast, highFrom_append_singleton, List.length_append,
      List.length_singleton]
    constructor
    · rintro ⟨hopen, hlt, hhigh⟩
      exact ⟨hlt, (ih.1 hopen).2, hhigh⟩
    · rintro ⟨hlt, hinit, hhigh⟩
      exact ⟨ih.2 ⟨by omega, hinit⟩, hlt, hhigh⟩

/-- A run from HOLD with every sample of WLOW high ends at its tick T_HOLD + T_REL + T_WLOW with NO_RESPONSE (R137). -/
theorem ticks_close_firstWindow {lvs : List Levels} (hhigh : HighFrom s.curPin (beforeWlow s) s.ctr.toNat lvs)
    (hlen : s.ctr.toNat + lvs.length = beforeWlow s + s.params.tWlow) : (ticks lvs s).EndedWith .noResponse := by
  have hc : s.ctr.toNat < tHold s.curVar := by simpa [State.counterInRange, hp] using h.counters
  have hpassed : ¬ (ticks lvs s).phase.stage ≤ 2 := by
    rw [ticks_firstWindow_iff h hp]
    omega
  obtain rfl | ⟨lvs, lv, rfl⟩ := lvs.eq_nil_or_concat'
  · exact absurd hlen (by simp [beforeWlow]; omega)
  rw [List.length_append, List.length_singleton] at hlen
  obtain ⟨hinit, hlast⟩ := highFrom_append_singleton.1 hhigh
  obtain ⟨-, ⟨hwlow, -⟩, -⟩ := legal_iff.1 h.legal
  have hopen : (ticks lvs s).phase.stage ≤ 2 := (ticks_firstWindow_iff h hp lvs).2 ⟨by omega, hinit⟩
  obtain ⟨hinv, hat, hbefore, -⟩ := ticks_fromHold h hp lvs
  have hphase := hat.wlow hinv hopen (by omega)
  have hsample := ticks_sample hinv (by simp [hphase]) lv
  rw [ticks_append, ticks_cons, ticks_nil] at hpassed ⊢
  obtain ⟨-, hstays⟩ | ⟨-, hended⟩ := tick_wlow_of_high hphase (hsample.trans (hlast (by omega)))
  · exact absurd (by rw [hstays]; decide) hpassed
  · exact hended

/-- A run from HOLD raises NO_RESPONSE at its tick T_HOLD + T_REL + T_WLOW, with every sample of WLOW high (R137). -/
theorem ticks_raise_noResponse {lvs : List Levels} {lv : Levels} (hs : (ticks lvs s).err ≠ .noResponse)
    (ht : (ticks (lvs ++ [lv]) s).err = .noResponse) :
    s.ctr.toNat + lvs.length + 1 = beforeWlow s + s.params.tWlow ∧
    HighFrom s.curPin (beforeWlow s) s.ctr.toNat (lvs ++ [lv]) := by
  rw [ticks_append] at ht
  obtain ⟨hphase, hl, hidle⟩ := tick_raises_noResponse hs ht
  obtain ⟨hinv, -⟩ := ticks_fromHold h hp lvs
  rw [ticks_sample hinv (by simp [hphase])] at hl
  obtain ⟨hlt, hinit⟩ := (ticks_firstWindow_iff h hp lvs).1 (by rw [hphase]; decide)
  have hhigh := highFrom_append_singleton.2 ⟨hinit, fun _ => hl⟩
  have hpassed : ¬ (ticks (lvs ++ [lv]) s).phase.stage ≤ 2 := by
    rw [ticks_append, ticks_cons, ticks_nil, hidle]
    decide
  rw [ticks_firstWindow_iff h hp, List.length_append, List.length_singleton] at hpassed
  refine ⟨?_, hhigh⟩
  by_contra hne
  exact hpassed ⟨by omega, hhigh⟩

end fromHold

/-- Settles O48: only a tick in WLOW raises it, and a run from HOLD closes the first window at its last tick. -/
theorem noResponseComesAtItsTick : Obligations.NoResponseComesAtItsTick := by
  unfold Obligations.NoResponseComesAtItsTick
  refine ⟨fun s t hstep hs ht => ?_, ?_, fun s lvs lv h hp => ticks_raise_noResponse h hp⟩
  · obtain ⟨hinput, hmove⟩ := step_raises_by_tick hstep (ht ▸ hs) (by simp [ht]) (by simp [ht])
    obtain ⟨hwlow, -⟩ := hmove.raises (ht ▸ hs) (by simp [ht])
    exact ⟨hwlow ht, hinput⟩
  · intro s lvs k h hp h0 hhigh hlen hk t
    have hzero : s.ctr.toNat = 0 := congrArg BitVec.toNat h0
    have hhigh : HighFrom s.curPin (beforeWlow s) s.ctr.toNat lvs := fun j hj hb =>
      hhigh j hj (by rwa [hzero, zero_add] at hb)
    split
    · next hlt =>
      have hopen : t.phase.stage ≤ 2 := (ticks_firstWindow_iff h hp _).2
        ⟨by rw [hzero, List.length_take, beforeWlow]; omega, hhigh.take k⟩
      intro hidle
      rw [hidle] at hopen
      exact absurd hopen (by decide)
    · have hall : t = ticks lvs s := congrArg (ticks · s) (List.take_of_length_le (by omega))
      rw [hall]
      exact ticks_close_firstWindow h hp hhigh (by rw [hzero, zero_add]; exact hlen)

/-! ## The second window -/

/-- A low in WHIGH leaves the window open and counts, or closes it with MALFORMED_HANDSHAKE (R87). -/
theorem tick_whigh_of_low {s : State} (hp : s.phase = .whigh) {lv : Levels} (hl : s.sample lv s.curPin = .low) :
    ((s.ctr + 1).toNat ≠ s.params.tWhigh ∧ tick lv s = { s with line := .low, ctr := s.ctr + 1 }) ∨
    ((s.ctr + 1).toNat = s.params.tWhigh ∧ (tick lv s).EndedWith .malformedHandshake) := by
  rw [tick_of_whigh lv hp, hl]
  unfold whighTick
  dsimp only
  split
  · next hlast => exact .inr ⟨hlast, rfl, rfl, rfl, rfl⟩
  · next hopen => exact .inl ⟨hopen, rfl⟩

/-- A high in WHIGH starts the first bit measurement (R87). -/
theorem tick_whigh_of_high {s : State} (hp : s.phase = .whigh) {lv : Levels} (hl : s.sample lv s.curPin = .high) :
    (tick lv s).phase = .bits := by
  rw [tick_of_whigh lv hp, hl]
  rfl

/-- The tick that raises MALFORMED_HANDSHAKE is one of WHIGH, samples a low and ends the read (R87, R138). -/
theorem tick_raises_malformedHandshake {s : State} {lv : Levels} (hs : s.err ≠ .malformedHandshake)
    (ht : (tick lv s).err = .malformedHandshake) :
    s.phase = .whigh ∧ s.sample lv s.curPin = .low ∧ (tick lv s).phase = .idle := by
  obtain ⟨-, hwhigh, -, hidle, -⟩ := (tick_move lv s).raises (ht ▸ hs) (by simp [ht])
  have hp := hwhigh ht
  refine ⟨hp, ?_, hidle⟩
  cases hl : s.sample lv s.curPin with
  | low => rfl
  | high =>
    rw [tick_whigh_of_high hp hl] at hidle
    cases hidle

theorem ticks_not_whigh {s : State} (hs : 3 < s.phase.stage) (lvs : List Levels) : (ticks lvs s).phase ≠ .whigh :=
  fun hp => absurd (hs.trans_le (ticks_stage_le lvs s)) (by rw [hp]; decide)

/-- After ticks from WHIGH the second window is open exactly if they are fewer than are left of it and every sample was
low (R87). -/
theorem ticks_whigh_iff {s : State} (h : s.Inv) (hp : s.phase = .whigh) (lvs : List Levels) :
    (ticks lvs s).phase = .whigh ↔
      s.ctr.toNat + lvs.length < s.params.tWhigh ∧ ∀ l ∈ lvs, l[s.curPin.toNat]'s.curPin.isLt = .low := by
  have hc : s.ctr.toNat < s.params.tWhigh := by simpa [State.counterInRange, hp] using h.counters
  induction lvs generalizing s with
  | nil => exact iff_of_true hp ⟨hc, by simp⟩
  | cons lv lvs ih =>
    obtain ⟨-, -, -, hle⟩ := le_ctrMax s.params s.curVar
    have hsucc := h.ctr_succ hc hle
    rw [ticks_cons, List.forall_mem_cons, List.length_cons, ← h.sample_released (by simp [hp])]
    cases hl : s.sample lv s.curPin with
    | high =>
      have hpast : 3 < (tick lv s).phase.stage := by rw [tick_whigh_of_high hp hl]; decide
      exact iff_of_false (ticks_not_whigh hpast lvs) fun ⟨_, hlow, _⟩ => absurd hlow (by decide)
    | low =>
      obtain ⟨hopen, he⟩ | ⟨hlast, hidle, -⟩ := tick_whigh_of_low hp hl
      · have hinv := inv_tick h (h.running_not_inReset (by simp [hp])) lv
        rw [he] at hinv ⊢
        refine (ih hinv hp (by dsimp only; omega)).trans ?_
        dsimp only
        rw [hsucc, add_assoc, add_comm 1]
        exact and_congr_right fun _ => (and_iff_right rfl).symm
      · have hpast : 3 < (tick lv s).phase.stage := by rw [hidle]; decide
        exact iff_of_false (ticks_not_whigh hpast lvs) (by omega)

section fromWhigh

variable {s : State} (h : s.Inv) (hp : s.phase = .whigh)

include h hp

/-- In an open second window the line has the level the environment gives it (R26). -/
theorem ticks_whigh_sample {lvs : List Levels} (hopen : (ticks lvs s).phase = .whigh) (lv : Levels) :
    (ticks lvs s).sample lv (ticks lvs s).curPin = lv[s.curPin.toNat]'s.curPin.isLt := by
  have hinv := inv_ticks h (h.running_not_inReset (by simp [hp])) lvs
  exact ticks_sample hinv (by simp [hopen]) lv

/-- A run from WHIGH with every sample low ends at the window's last tick with MALFORMED_HANDSHAKE (R138). -/
theorem ticks_close_secondWindow {lvs : List Levels} (hlow : ∀ l ∈ lvs, l[s.curPin.toNat]'s.curPin.isLt = .low)
    (hlen : s.ctr.toNat + lvs.length = s.params.tWhigh) : (ticks lvs s).EndedWith .malformedHandshake := by
  have hc : s.ctr.toNat < s.params.tWhigh := by simpa [State.counterInRange, hp] using h.counters
  have hpassed : (ticks lvs s).phase ≠ .whigh := fun hopen => by
    obtain ⟨hlt, -⟩ := (ticks_whigh_iff h hp lvs).1 hopen
    omega
  obtain rfl | ⟨lvs, lv, rfl⟩ := lvs.eq_nil_or_concat'
  · exact absurd hp hpassed
  rw [List.length_append, List.length_singleton] at hlen
  rw [List.forall_mem_append, List.forall_mem_singleton] at hlow
  obtain ⟨hinit, hlast⟩ := hlow
  have hopen : (ticks lvs s).phase = .whigh := (ticks_whigh_iff h hp lvs).2 ⟨by omega, hinit⟩
  rw [ticks_append, ticks_cons, ticks_nil] at hpassed ⊢
  obtain ⟨-, he⟩ | ⟨-, hended⟩ := tick_whigh_of_low hopen ((ticks_whigh_sample h hp hopen lv).trans hlast)
  · exact absurd (he ▸ hopen) hpassed
  · exact hended

/-- A run from WHIGH raises MALFORMED_HANDSHAKE at the window's last tick, with every sample low (R138). -/
theorem ticks_raise_malformedHandshake {lvs : List Levels} {lv : Levels}
    (hs : (ticks lvs s).err ≠ .malformedHandshake) (ht : (ticks (lvs ++ [lv]) s).err = .malformedHandshake) :
    s.ctr.toNat + lvs.length + 1 = s.params.tWhigh ∧
    ∀ l ∈ lvs ++ [lv], l[s.curPin.toNat]'s.curPin.isLt = .low := by
  rw [ticks_append] at ht
  obtain ⟨hopen, hl, hidle⟩ := tick_raises_malformedHandshake hs ht
  rw [ticks_whigh_sample h hp hopen] at hl
  obtain ⟨hlt, hinit⟩ := (ticks_whigh_iff h hp lvs).1 hopen
  have hlow : ∀ l ∈ lvs ++ [lv], l[s.curPin.toNat]'s.curPin.isLt = .low := by
    rw [List.forall_mem_append, List.forall_mem_singleton]
    exact ⟨hinit, hl⟩
  have hpassed : (ticks (lvs ++ [lv]) s).phase ≠ .whigh := by
    rw [ticks_append, ticks_cons, ticks_nil, hidle]
    decide
  rw [ne_eq, ticks_whigh_iff h hp, List.length_append, List.length_singleton] at hpassed
  refine ⟨?_, hlow⟩
  by_contra hne
  exact hpassed ⟨by omega, hlow⟩

end fromWhigh

/-- Settles O49: only a tick in WHIGH raises it, and a run from WHIGH closes the second window at its last tick. -/
theorem malformedHandshakeComesAtItsTick : Obligations.MalformedHandshakeComesAtItsTick := by
  unfold Obligations.MalformedHandshakeComesAtItsTick
  refine ⟨fun s t hstep hs ht => ?_, ?_, fun s lvs lv h hp => ticks_raise_malformedHandshake h hp⟩
  · obtain ⟨hinput, hmove⟩ := step_raises_by_tick hstep (ht ▸ hs) (by simp [ht]) (by simp [ht])
    obtain ⟨-, hwhigh, -⟩ := hmove.raises (ht ▸ hs) (by simp [ht])
    exact ⟨hwhigh ht, hinput⟩
  · intro s lvs k h hp h0 hlow hlen hk t
    have hzero : s.ctr.toNat = 0 := congrArg BitVec.toNat h0
    have hlow : ∀ l ∈ lvs, l[s.curPin.toNat]'s.curPin.isLt = .low := List.forall_mem_iff_getElem.2 hlow
    split
    · next hlt =>
      exact (ticks_whigh_iff h hp _).2
        ⟨by rw [hzero, List.length_take]; omega, fun l hl => hlow l (List.mem_of_mem_take hl)⟩
    · have hall : t = ticks lvs s := congrArg (ticks · s) (List.take_of_length_le (by omega))
      rw [hall]
      exact ticks_close_secondWindow h hp hlow (by rw [hzero, zero_add]; exact hlen)

end Sys2Proof.Machine

/-! PROOF. The reset input (70_reset_and_hazards.md): what asserting it leaves (R153), and what an input does to the
block while it is asserted (R154). -/

namespace Sys2Proof.Machine

/-! ## The inputs of a block in reset -/

/-- After reset is asserted each register reads as it does at reset (R42, R154): no register shows an element that
assertReset keeps. -/
theorem readReg_assertReset (s : State) (r : Reg) : s.assertReset.readReg r = State.reset.readReg r := by
  cases r <;> rfl

section held

variable {s : State} (hr : s.inReset = true)

include hr

theorem tickInput_of_held (lv : Levels) : tickInput lv s = s := if_pos hr

theorem writeReg_of_held (r : Reg) (v : Word) : writeReg r v s = .next s := if_pos hr

/-- The invariant holds a block in reset at the reset values, so its registers read as they do at reset. -/
theorem State.Inv.readReg_of_held (h : s.Inv) (r : Reg) : s.readReg r = State.reset.readReg r := by
  rw [h.resetHeld hr, readReg_assertReset]

end held

/-! ## The obligations -/

/-- Settles O8: the tick rule and the register's write are both shut off, and a read changes nothing but the reply. -/
theorem assertedResetHoldsBlock : Obligations.AssertedResetHoldsBlock := by
  unfold Obligations.AssertedResetHoldsBlock
  intro s rest h hr
  refine ⟨fun lv hi => ?tick, fun off v hlt halign hi => ?write, fun off hlt halign hi => ?read⟩
  case tick => rw [step_of_input h.legal hi, applyInput, tickInput_of_held (s := { s with inputs := rest }) hr]
  case write =>
    rw [step_of_write hlt halign h.legal hi]
    exact writeReg_of_held (s := { s with inputs := rest, reply := some .written }) hr _ v
  case read => rw [step_of_read hlt halign h.legal hi, h.readReg_of_held hr]

/-- Settles O7: the step answers assertReset, whose outputs and pads are those of the reset values. -/
theorem assertedResetSetsResetState : Obligations.AssertedResetSetsResetState := by
  unfold Obligations.AssertedResetSetsResetState
  intro s rest hl hi
  have hstep : step s = .next (State.assertReset { s with inputs := rest }) := step_of_input hl hi
  exact ⟨_, hstep, rfl, rfl, rfl, rfl, rfl, fun p => ⟨pinModeAt_reset p, pinLvlAt_reset p⟩⟩

end Sys2Proof.Machine
